-- ==== Sys2Proof/Word.lean ====
section
/-! DEFINITION. The word types of the block, and the exact real numbers of its signal path written as data.

The signal path is exact real arithmetic (00_scope.md R15), and a real number is no plain datum. A number of the signal
path is therefore held as the EXPRESSION that computes it: plain data, comparable and printable. What real number an
expression stands for is `Exact.val` (Machine/Denote.lean); the arithmetic that builds expressions is Machine/Numbers.lean. -/

namespace Sys2Proof

/-- A command word, 32 bits (30_encoding.md R100). -/
abbrev Word := BitVec 32

/-- A PackedNote word, 16 bits (30_encoding.md R110). -/
abbrev NoteWord := BitVec 16

/-- One byte of the tables (00_scope.md R14). -/
abbrev Byte := BitVec 8

/-- A table address, TABLE_ADDR_BITS = 16 bits (20_memory.md R81). -/
abbrev Addr := BitVec 16

/-- An exact real number, as the expression that computes it (00_scope.md R15; log 1).
`rom k` is entry `k` of the note_to_frequency_ROM, `pitch q` is 440·2^((q − 33)/12), `sinTurn x` is sin(2πx), `draw n` is the
free noise draw number `n`, and `outside k x` is the outside function number `k` at `x` (log 14). -/
inductive Exact where
  | rat (q : Rat)
  | rom (k : Fin 128)
  | pitch (q : Rat)
  | draw (n : Nat)
  | sinTurn (x : Exact)
  | outside (k : Nat) (x : Exact)
  | sum (x y : Exact)
  | prod (x y : Exact)
  | recip (x : Exact)
  | modulo (x : Exact) (m : Rat)
  | absVal (x : Exact)
  | least (x y : Exact)
  | greatest (x y : Exact)
  | ifLess (a b x y : Exact)
  deriving DecidableEq, Repr

/-- A byte as the unsigned integer zext_8 (00_scope.md R12). -/
def byteIndex (b : Byte) : Fin 256 := ⟨b.toNat, b.isLt⟩

end Sys2Proof
end

