-- ==== Sys2Proof/Syntax.lean ====
section
/-! DEFINITION. The instructions: one constructor for each row of spec/opcode_table.json.

The table has three formats of instruction word: the 32-bit command words (CMD_SFX, CMD_MUSIC, CMD_BARE), and the two
selectors inside a 16-bit PackedNote (note_effect, note_wave; 30_encoding.md R132). Operands of a command are signed
integers (R103); bits the block ignores are kept as bits, so that no bit of an encoding is dropped. -/

namespace Sys2Proof

/-- The eight waveforms (41_waveform_oscillator.md R143), index 0 first. -/
inductive Waveform where
  | triangle | tilted | sawtooth | square | pulse | organ | noise | phaser
  deriving DecidableEq, Repr

/-- The eight effects of the effect policy (43_step_sequencer.md R205–R212), index 0 first. -/
inductive Effect where
  | none | slide | vibrato | drop | fadeIn | fadeOut | arpFast | arpSlow
  deriving DecidableEq, Repr

/-- The fields of a note beside its effect (30_encoding.md R111). `wave` is w[8:6]; `custom` is w[15]. -/
structure NoteFields where
  pitch  : Fin 64
  wave   : Waveform
  volume : Fin 8
  custom : Bool
  deriving DecidableEq, Repr

/-- A decoded note (30_encoding.md R111): its effect and its other fields. -/
structure PackedNote where
  effect : Effect
  fields : NoteFields
  deriving DecidableEq, Repr

/-- The instructions of spec/opcode_table.json, in the table's order. -/
inductive Instr where
  | nop (ignored : BitVec 28)
  | sfxStop (ch : Int) (ignored : BitVec 16)
  | sfxRelease (ch : Int) (ignored : BitVec 16)
  | sfxPlay (n ch off len : Int)
  | sfxReserved (n : Int) (ignored : BitVec 20)
  | music (n : Int) (fadeMask : BitVec 20)
  | pull (ignored : BitVec 28)
  | reservedOp47 (op : BitVec 2) (ignored : BitVec 28)
  | reservedOp8F (op : BitVec 3) (ignored : BitVec 28)
  | fxNone (note : NoteFields)
  | fxSlide (note : NoteFields)
  | fxVibrato (note : NoteFields)
  | fxDrop (note : NoteFields)
  | fxFadeIn (note : NoteFields)
  | fxFadeOut (note : NoteFields)
  | fxArpFast (note : NoteFields)
  | fxArpSlow (note : NoteFields)
  | waveTri (custom : Bool)
  | waveTilt (custom : Bool)
  | waveSaw (custom : Bool)
  | waveSquare (custom : Bool)
  | wavePulse (custom : Bool)
  | waveOrgan (custom : Bool)
  | waveNoise (custom : Bool)
  | wavePhaser (custom : Bool)
  deriving DecidableEq, Repr

/-- An instruction word of one of the three formats of the opcode table. -/
inductive InstrWord where
  | command (w : Word)
  | noteEffect (w : NoteWord)
  | noteWave (w : NoteWord)
  deriving DecidableEq, Repr

end Sys2Proof
end

