-- ==== Sys2Proof/WellFormed.lean ====
section
/-! DEFINITION. Which instructions have a word: every operand lies in the range of its field (30_encoding.md R103; an
operand outside its field range cannot be encoded, R130). -/

namespace Sys2Proof

/-- `lo ≤ v ≤ hi`. -/
def inRange (lo v hi : Int) : Bool := decide (lo ≤ v) && decide (v ≤ hi)

/-- The range of the 4-bit signed channel field, −8..7 (R103). -/
def chInField (ch : Int) : Bool := inRange (-8) ch 7

/-- The range of an 8-bit signed field, −128..127 (R103). -/
def byteInField (v : Int) : Bool := inRange (-128) v 127

/-- An instruction that a word of the block encodes. -/
def Instr.wf : Instr → Bool
  | .nop _ => true
  | .sfxStop ch _ => chInField ch
  | .sfxRelease ch _ => chInField ch
  | .sfxPlay n ch off len => inRange 0 n 127 && chInField ch && byteInField off && byteInField len
  | .sfxReserved n _ => inRange (-128) n (-3)
  | .music n _ => byteInField n
  | .pull _ => true
  | .reservedOp47 _ _ => true
  | .reservedOp8F _ _ => true
  | .fxNone _ => true
  | .fxSlide _ => true
  | .fxVibrato _ => true
  | .fxDrop _ => true
  | .fxFadeIn _ => true
  | .fxFadeOut _ => true
  | .fxArpFast _ => true
  | .fxArpSlow _ => true
  | .waveTri _ => true
  | .waveTilt _ => true
  | .waveSaw _ => true
  | .waveSquare _ => true
  | .wavePulse _ => true
  | .waveOrgan _ => true
  | .waveNoise _ => true
  | .wavePhaser _ => true

end Sys2Proof
end

