-- ==== Sys2Proof/Decode.lean ====
section
/-! DEFINITION. The decoder, total on every word, and the encoder (30_encoding.md).

`decodeCommand` reads a 32-bit command word (R100–R106); `decodeNote` a 16-bit PackedNote (R110, R111), and
`decodeNoteEffect` and `decodeNoteWave` the two selectors a note word holds (R132). Every word of each format decodes:
the reserved encodings are instructions of their own (R106). What is rejected, by name, is a word of a width the table
does not have (`DecodeError`). -/

namespace Sys2Proof

/-! ## Selector indices -/

/-- The waveform of index `w[8:6]` (41_waveform_oscillator.md R143). -/
def waveformOf (i : BitVec 3) : Waveform :=
  if i = 0#3 then .triangle
  else if i = 1#3 then .tilted
  else if i = 2#3 then .sawtooth
  else if i = 3#3 then .square
  else if i = 4#3 then .pulse
  else if i = 5#3 then .organ
  else if i = 6#3 then .noise
  else .phaser

/-- The index of a waveform (41_waveform_oscillator.md R143). -/
def waveformBits : Waveform → BitVec 3
  | .triangle => 0#3
  | .tilted => 1#3
  | .sawtooth => 2#3
  | .square => 3#3
  | .pulse => 4#3
  | .organ => 5#3
  | .noise => 6#3
  | .phaser => 7#3

/-- The effect of index `w[14:12]` (43_step_sequencer.md R205–R212). -/
def effectOf (i : BitVec 3) : Effect :=
  if i = 0#3 then .none
  else if i = 1#3 then .slide
  else if i = 2#3 then .vibrato
  else if i = 3#3 then .drop
  else if i = 4#3 then .fadeIn
  else if i = 5#3 then .fadeOut
  else if i = 6#3 then .arpFast
  else .arpSlow

/-- The index of an effect (43_step_sequencer.md R205–R212). -/
def effectBits : Effect → BitVec 3
  | .none => 0#3
  | .slide => 1#3
  | .vibrato => 2#3
  | .drop => 3#3
  | .fadeIn => 4#3
  | .fadeOut => 5#3
  | .arpFast => 6#3
  | .arpSlow => 7#3

/-! ## Command words -/

/-- A command word of opcode 0x1, sub-decoded by `n` (R103). -/
def decodeSfx (w : Word) : Instr :=
  let n := (w.extractLsb' 20 8).toInt
  let ch := (w.extractLsb' 16 4).toInt
  let off := (w.extractLsb' 8 8).toInt
  let len := (w.extractLsb' 0 8).toInt
  if n = -1 then .sfxStop ch (w.extractLsb' 0 16)
  else if n = -2 then .sfxRelease ch (w.extractLsb' 0 16)
  else if 0 ≤ n then .sfxPlay n ch off len
  else .sfxReserved n (w.extractLsb' 0 20)

/-- A command word by its opcode `cmd[31:28]` (R101, 45_voice_mixer.md R279). -/
def decodeCommand (w : Word) : Instr :=
  let op := w.extractLsb' 28 4
  if op = 0x0#4 then .nop (w.extractLsb' 0 28)
  else if op = 0x1#4 then decodeSfx w
  else if op = 0x2#4 then .music (w.extractLsb' 20 8).toInt (w.extractLsb' 0 20)
  else if op = 0x3#4 then .pull (w.extractLsb' 0 28)
  else if op.toNat < 8 then .reservedOp47 (w.extractLsb' 28 2) (w.extractLsb' 0 28)
  else .reservedOp8F (w.extractLsb' 28 3) (w.extractLsb' 0 28)

/-! ## Notes -/

/-- A PackedNote word (R111): pitch w[5:0], wave w[8:6], volume w[11:9], effect w[14:12], custom w[15]. -/
def decodeNote (w : NoteWord) : PackedNote where
  effect := effectOf (w.extractLsb' 12 3)
  fields :=
    { pitch := (w.extractLsb' 0 6).toFin
      wave := waveformOf (w.extractLsb' 6 3)
      volume := (w.extractLsb' 9 3).toFin
      custom := w.getLsbD 15 }

/-- The `waveform` field of a note, 0–15: 8·w[15] + w[8:6] (R111). -/
def waveformId (f : NoteFields) : Nat := 8 * f.custom.toNat + (waveformBits f.wave).toNat

/-- The effect instruction a note stands for (R132). -/
def effectInstr (p : PackedNote) : Instr :=
  match p.effect with
  | .none => .fxNone p.fields
  | .slide => .fxSlide p.fields
  | .vibrato => .fxVibrato p.fields
  | .drop => .fxDrop p.fields
  | .fadeIn => .fxFadeIn p.fields
  | .fadeOut => .fxFadeOut p.fields
  | .arpFast => .fxArpFast p.fields
  | .arpSlow => .fxArpSlow p.fields

/-- The waveform instruction of a waveform index and the custom bit (R132). -/
def waveInstr (w : Waveform) (custom : Bool) : Instr :=
  match w with
  | .triangle => .waveTri custom
  | .tilted => .waveTilt custom
  | .sawtooth => .waveSaw custom
  | .square => .waveSquare custom
  | .pulse => .wavePulse custom
  | .organ => .waveOrgan custom
  | .noise => .waveNoise custom
  | .phaser => .wavePhaser custom

/-- The one note_effect row a note word matches (R132). -/
def decodeNoteEffect (w : NoteWord) : Instr := effectInstr (decodeNote w)

/-- The one note_wave row a note word matches (R132). -/
def decodeNoteWave (w : NoteWord) : Instr := waveInstr (decodeNote w).fields.wave (decodeNote w).fields.custom

/-- An instruction word of any of the three formats. -/
def decode : InstrWord → Instr
  | .command w => decodeCommand w
  | .noteEffect w => decodeNoteEffect w
  | .noteWave w => decodeNoteWave w

/-! ## The opcode table -/

/-- One row of spec/opcode_table.json: a word of `width` bits matches it when its bits under `mask` are `bits`. -/
structure Row (width : Nat) where
  mnemonic : String
  mask     : BitVec width
  bits     : BitVec width
  deriving DecidableEq, Repr

/-- A word matches a row. -/
def Row.matchedBy {width : Nat} (r : Row width) (w : BitVec width) : Bool := w &&& r.mask == r.bits

/-- The rows of the command formats, in the table's order; the first that matches is the word's (R101, R103). -/
def commandRows : List (Row 32) :=
  [
    { mnemonic := "NOP", mask := 0xF0000000#32, bits := 0x00000000#32 },
    { mnemonic := "SFX_STOP", mask := 0xFFF00000#32, bits := 0x1FF00000#32 },
    { mnemonic := "SFX_RELEASE", mask := 0xFFF00000#32, bits := 0x1FE00000#32 },
    { mnemonic := "SFX_PLAY", mask := 0xF8000000#32, bits := 0x10000000#32 },
    { mnemonic := "SFX_RESERVED", mask := 0xF8000000#32, bits := 0x18000000#32 },
    { mnemonic := "MUSIC", mask := 0xF0000000#32, bits := 0x20000000#32 },
    { mnemonic := "PULL", mask := 0xF0000000#32, bits := 0x30000000#32 },
    { mnemonic := "RESERVED_OP_4_7", mask := 0xC0000000#32, bits := 0x40000000#32 },
    { mnemonic := "RESERVED_OP_8_F", mask := 0x80000000#32, bits := 0x80000000#32 } ]

/-- The rows of format note_effect (R132). -/
def effectRows : List (Row 16) :=
  [
    { mnemonic := "FX_NONE", mask := 0x7000#16, bits := 0x0000#16 },
    { mnemonic := "FX_SLIDE", mask := 0x7000#16, bits := 0x1000#16 },
    { mnemonic := "FX_VIBRATO", mask := 0x7000#16, bits := 0x2000#16 },
    { mnemonic := "FX_DROP", mask := 0x7000#16, bits := 0x3000#16 },
    { mnemonic := "FX_FADE_IN", mask := 0x7000#16, bits := 0x4000#16 },
    { mnemonic := "FX_FADE_OUT", mask := 0x7000#16, bits := 0x5000#16 },
    { mnemonic := "FX_ARP_FAST", mask := 0x7000#16, bits := 0x6000#16 },
    { mnemonic := "FX_ARP_SLOW", mask := 0x7000#16, bits := 0x7000#16 } ]

/-- The rows of format note_wave (R132). -/
def waveRows : List (Row 16) :=
  [
    { mnemonic := "WAVE_TRI", mask := 0x01C0#16, bits := 0x0000#16 },
    { mnemonic := "WAVE_TILT", mask := 0x01C0#16, bits := 0x0040#16 },
    { mnemonic := "WAVE_SAW", mask := 0x01C0#16, bits := 0x0080#16 },
    { mnemonic := "WAVE_SQUARE", mask := 0x01C0#16, bits := 0x00C0#16 },
    { mnemonic := "WAVE_PULSE", mask := 0x01C0#16, bits := 0x0100#16 },
    { mnemonic := "WAVE_ORGAN", mask := 0x01C0#16, bits := 0x0140#16 },
    { mnemonic := "WAVE_NOISE", mask := 0x01C0#16, bits := 0x0180#16 },
    { mnemonic := "WAVE_PHASER", mask := 0x01C0#16, bits := 0x01C0#16 } ]

/-- The mnemonic of an instruction's row. -/
def Instr.mnemonic : Instr → String
  | .nop _ => "NOP"
  | .sfxStop _ _ => "SFX_STOP"
  | .sfxRelease _ _ => "SFX_RELEASE"
  | .sfxPlay _ _ _ _ => "SFX_PLAY"
  | .sfxReserved _ _ => "SFX_RESERVED"
  | .music _ _ => "MUSIC"
  | .pull _ => "PULL"
  | .reservedOp47 _ _ => "RESERVED_OP_4_7"
  | .reservedOp8F _ _ => "RESERVED_OP_8_F"
  | .fxNone _ => "FX_NONE"
  | .fxSlide _ => "FX_SLIDE"
  | .fxVibrato _ => "FX_VIBRATO"
  | .fxDrop _ => "FX_DROP"
  | .fxFadeIn _ => "FX_FADE_IN"
  | .fxFadeOut _ => "FX_FADE_OUT"
  | .fxArpFast _ => "FX_ARP_FAST"
  | .fxArpSlow _ => "FX_ARP_SLOW"
  | .waveTri _ => "WAVE_TRI"
  | .waveTilt _ => "WAVE_TILT"
  | .waveSaw _ => "WAVE_SAW"
  | .waveSquare _ => "WAVE_SQUARE"
  | .wavePulse _ => "WAVE_PULSE"
  | .waveOrgan _ => "WAVE_ORGAN"
  | .waveNoise _ => "WAVE_NOISE"
  | .wavePhaser _ => "WAVE_PHASER"

/-! ## The opcode table's own numbering of bits -/

/-- Why bits are no instruction word. -/
inductive DecodeError where
  /-- The table has instructions of 32 and of 16 bits only (R100, R110). -/
  | noSuchWidth (nbits : Nat)
  deriving DecidableEq, Repr

/-- The instruction word of `nbits` bits `w`. A 16-bit word matches one note_effect row and one note_wave row (R132); it is
read as the note_wave row, whose only bits are w[8:6], when no other bit is set, else as the note_effect row
(DESIGN CHOICE, log 13: safe). -/
def instrWordOf (nbits w : Nat) : Except DecodeError InstrWord :=
  if nbits = 32 then .ok (.command (BitVec.ofNat 32 w))
  else if nbits = 16 then
    let v := BitVec.ofNat 16 w
    if v &&& 0xFE3F#16 = 0#16 then .ok (.noteWave v) else .ok (.noteEffect v)
  else .error (.noSuchWidth nbits)

/-- The instruction the decoder reads from bits numbered as spec/opcode_table.json numbers them. -/
def decodeTableWord (nbits w : Nat) : Option Instr :=
  match instrWordOf nbits w with
  | .ok v => some (decode v)
  | .error _ => none

/-! ## The encoder -/

/-- A command word from its fields: op, n, ch, and the low 16 bits (R102). -/
def sfxWord (n : Int) (ch : Int) (low : BitVec 16) : Word :=
  0x1#4 ++ BitVec.ofInt 8 n ++ BitVec.ofInt 4 ch ++ low

/-- A note word from its fields (R111). -/
def noteWord (e : Effect) (f : NoteFields) : NoteWord :=
  BitVec.ofBool f.custom ++ effectBits e ++ BitVec.ofNat 3 f.volume.val ++ waveformBits f.wave ++ BitVec.ofNat 6 f.pitch.val

/-- The note_wave bits of a note word: wave w[8:6] and custom w[15], every other bit 0 (R132). -/
def waveWord (w : Waveform) (custom : Bool) : NoteWord :=
  BitVec.ofBool custom ++ 0#6 ++ waveformBits w ++ 0#6

/-- The word of an instruction (R102, R111). -/
def encode : Instr → InstrWord
  | .nop ignored => .command (0x0#4 ++ ignored)
  | .sfxStop ch ignored => .command (sfxWord (-1) ch ignored)
  | .sfxRelease ch ignored => .command (sfxWord (-2) ch ignored)
  | .sfxPlay n ch off len => .command (sfxWord n ch (BitVec.ofInt 8 off ++ BitVec.ofInt 8 len))
  | .sfxReserved n ignored => .command (0x1#4 ++ BitVec.ofInt 8 n ++ ignored)
  | .music n fadeMask => .command (0x2#4 ++ BitVec.ofInt 8 n ++ fadeMask)
  | .pull ignored => .command (0x3#4 ++ ignored)
  | .reservedOp47 op ignored => .command (0b01#2 ++ op ++ ignored)
  | .reservedOp8F op ignored => .command (0b1#1 ++ op ++ ignored)
  | .fxNone note => .noteEffect (noteWord .none note)
  | .fxSlide note => .noteEffect (noteWord .slide note)
  | .fxVibrato note => .noteEffect (noteWord .vibrato note)
  | .fxDrop note => .noteEffect (noteWord .drop note)
  | .fxFadeIn note => .noteEffect (noteWord .fadeIn note)
  | .fxFadeOut note => .noteEffect (noteWord .fadeOut note)
  | .fxArpFast note => .noteEffect (noteWord .arpFast note)
  | .fxArpSlow note => .noteEffect (noteWord .arpSlow note)
  | .waveTri custom => .noteWave (waveWord .triangle custom)
  | .waveTilt custom => .noteWave (waveWord .tilted custom)
  | .waveSaw custom => .noteWave (waveWord .sawtooth custom)
  | .waveSquare custom => .noteWave (waveWord .square custom)
  | .wavePulse custom => .noteWave (waveWord .pulse custom)
  | .waveOrgan custom => .noteWave (waveWord .organ custom)
  | .waveNoise custom => .noteWave (waveWord .noise custom)
  | .wavePhaser custom => .noteWave (waveWord .phaser custom)

end Sys2Proof
end

