-- ==== Sys2Proof/Config.lean ====
section
/-! DEFINITION. The configuration record latched at reset, the fixed sizes of the block, and the literals of the spec as
named parameters with their defaults (00_scope.md R9, R10; 10_state.md R31).

The parameters SR, B, INSTR_BASE, SONG_BASE, LIT, WAVE and NOISE_DRAW are fields of `Cfg`, which stands in State: every
statement about all states holds for every value of them. `Config.exampleCfg`
(Machine/Waveforms.lean) is the configuration State.reset latches. -/

namespace Sys2Proof

/-- Where the noise waveform's random value comes from (92_eei_decisions.md D14): a free draw in [−1, 1] per noise sample,
or the named, non-normative reference LFSR. -/
inductive NoiseSource where
  | free
  | referenceLfsr
  deriving DecidableEq, Repr

/-- A rational number that is at least 0, by its form. -/
structure NonnegRat where
  num : Nat
  den : ℕ+
  deriving DecidableEq, Repr

/-- The number, as a rational. -/
def NonnegRat.toRat (q : NonnegRat) : Rat := (q.num : Rat) / ((q.den : Nat) : Rat)

/-- The parameter LIT: the source's numeric literals, each a named parameter (00_scope.md R9, R10; 92_eei_decisions.md D43;
93_implementation_defined.md item 5). Their defaults are `Config.defaultLit`. Their types are those the rules that use them ask
for (42_envelope_renderer.md R171, R174, R175, R178; 10_state.md R50; DEDUCED, log 14: unsafe in form). -/
structure Literals where
  /-- SPEED_DIV: note duration = speed / SPEED_DIV s. -/
  speedDiv        : ℕ+
  /-- FADE_DEFAULT_IN, as a fraction of the duration (effects 0, 6, 7). -/
  fadeDefaultIn   : NonnegRat
  /-- FADE4_IN, as a fraction of the duration. -/
  fade4In         : NonnegRat
  /-- FADE4_OUT, as a fraction of the duration. -/
  fade4Out        : NonnegRat
  /-- FADE5_OUT, as a fraction of the duration. -/
  fade5Out        : NonnegRat
  /-- FADE5_NEXT_IN: the numerator of 1 / duration, in seconds. -/
  fade5NextIn     : NonnegRat
  /-- FADE_FALLBACK_IN, as a fraction of the duration: the source's "other" row, which no 3-bit effect selects
  (43_step_sequencer.md R215). -/
  fadeFallbackIn  : NonnegRat
  /-- SLIDE_FIRST_PITCH. -/
  slideFirstPitch : Fin 64
  /-- DROP_TARGET_PITCH. -/
  dropTargetPitch : Fin 64
  /-- VIB_HZ. -/
  vibHz           : Rat
  /-- VIB_DEPTH, in semitones. -/
  vibDepth        : NonnegRat
  /-- PULSE_DUTY. -/
  pulseDuty       : Rat
  /-- NOISE_REF_PITCH. -/
  noiseRefPitch   : Fin 64
  /-- DEFAULT_LENGTH: the length of an `sfx` call that gives none (30_encoding.md R131), and of a music voice
  (44_pattern_sequencer.md R241; the API default, by 92_eei_decisions.md D23). -/
  defaultLength   : Int
  deriving DecidableEq, Repr

/-- A function of the phase, as the expression that computes it (plain data; DESIGN CHOICE, log 14: safe): `phase` is the
argument, `pulseDuty` the literal, `sinTurn x` is sin(2πx), `ifLess a b x y` is `a < b ? x : y`. `outside k x` is the outside
function number `k` at `x`, which a claim leaves free: it may be any function of the real numbers. What an expression computes
is `WaveFn.apply` (Machine/Waveforms.lean). -/
inductive WaveFn where
  | phase
  | rat (q : Rat)
  | pulseDuty
  | sinTurn (x : WaveFn)
  | outside (k : Nat) (x : WaveFn)
  | sum (x y : WaveFn)
  | prod (x y : WaveFn)
  | recip (x : WaveFn)
  | modulo (x : WaveFn) (m : Rat)
  | absVal (x : WaveFn)
  | least (x y : WaveFn)
  | greatest (x y : WaveFn)
  | ifLess (a b x y : WaveFn)
  deriving DecidableEq, Repr

/-- The parameter WAVE[0..7] (00_scope.md R9; 92_eei_decisions.md D11), each function under its waveform's name. WAVE[6] is
the noise step, which is no function of the phase (41_waveform_oscillator.md R141): its parameter is the noise source. -/
structure WaveTable where
  tri    : WaveFn
  tilt   : WaveFn
  saw    : WaveFn
  square : WaveFn
  pulse  : WaveFn
  organ  : WaveFn
  phaser : WaveFn
  deriving DecidableEq, Repr

/-- The configuration inputs that reset latches (10_state.md R31). `sr` and `bufLen` are the integers supplied, which reset
checks (60_exceptions.md R311). `lit`, `waves` and `noise` are the parameters LIT, WAVE and NOISE_DRAW of R9: they stand here
too, so that no statement fixes them. -/
structure Cfg where
  sr        : Int
  bufLen    : Int
  instrBase : Addr
  songBase  : Addr
  lit       : Literals
  waves     : WaveTable
  noise     : NoiseSource
  deriving DecidableEq, Repr

/-- SR, the sample rate in Hz (R31). -/
def Cfg.rate (c : Cfg) : Nat := c.sr.toNat

/-- B, the mix-buffer length in samples (R31). -/
def Cfg.B (c : Cfg) : Nat := c.bufLen.toNat

namespace Config

/-! ## Fixed sizes (00_scope.md R9) -/

/-- INSTR_BYTES: bytes per instrument record. -/
def instrBytes : Nat := 68
/-- PAT_BYTES: bytes per pattern record. -/
def patBytes : Nat := 4
/-- PHASE_MOD: the phase accumulator modulus. -/
def phaseMod : Rat := 128

/-! ## The defaults of the literals (00_scope.md R10) -/

/-- The source's literals. -/
def defaultLit : Literals where
  speedDiv := 120
  fadeDefaultIn := ⟨5, 100⟩
  fade4In := ⟨95, 100⟩
  fade4Out := ⟨5, 100⟩
  fade5Out := ⟨95, 100⟩
  fade5NextIn := ⟨1, 1⟩
  fadeFallbackIn := ⟨1, 2⟩
  slideFirstPitch := 32
  dropTargetPitch := 0
  vibHz := 8
  vibDepth := ⟨1, 2⟩
  pulseDuty := 3125 / 10000
  noiseRefPitch := 63
  defaultLength := 32

/-! ## Configuration values the spec gives only as an example or a default (DESIGN CHOICE, log 2: unsafe for a run from
State.reset) -/

/-- The default INSTR_BASE (R9). -/
def defaultInstrBase : Addr := 0x3200#16
/-- The default SONG_BASE (R9). -/
def defaultSongBase : Addr := 0x3100#16
/-- The seed of the reference LFSR (D14). -/
def lfsrSeed : BitVec 32 := 0x00000001#32
/-- The Galois mask of the reference LFSR (D14). -/
def lfsrMask : BitVec 32 := 0x80200003#32

/-- The byte a table address holds that nothing has written (DESIGN CHOICE, log 3: unsafe for a run that decodes it). -/
def blankByte : Byte := 0#8

end Config

end Sys2Proof
end

