-- ==== Sys2Proof/Machine/Numbers.lean ====
section
/-! DEFINITION. Arithmetic that builds exact numbers (00_scope.md R15).

Each operation is the exact operation of R15 on the numbers its arguments stand for. Where both arguments are rational the
result is computed, and a zero or one that changes nothing is dropped; every other result is the expression itself. None of
this rounds: the value is the same either way (Laws/Numbers.lean). -/

namespace Sys2Proof

/-- The rational an expression is, when it is one. -/
def Exact.asRat : Exact → Option Rat
  | .rat q => some q
  | .rom _ => none
  | .pitch _ => none
  | .draw _ => none
  | .sinTurn _ => none
  | .outside _ _ => none
  | .sum _ _ => none
  | .prod _ _ => none
  | .recip _ => none
  | .modulo _ _ => none
  | .absVal _ => none
  | .least _ _ => none
  | .greatest _ _ => none
  | .ifLess _ _ _ _ => none

/-- `x + y`. -/
def Exact.add (x y : Exact) : Exact :=
  match x.asRat, y.asRat with
  | some a, some b => .rat (a + b)
  | some a, none => if a = 0 then y else .sum x y
  | none, some b => if b = 0 then x else .sum x y
  | none, none => .sum x y

/-- `x · y`. -/
def Exact.mul (x y : Exact) : Exact :=
  match x.asRat, y.asRat with
  | some a, some b => .rat (a * b)
  | some a, none => if a = 0 then .rat 0 else if a = 1 then y else .prod x y
  | none, some b => if b = 0 then .rat 0 else if b = 1 then x else .prod x y
  | none, none => .prod x y

/-- `x − y`; a number less itself is 0. -/
def Exact.sub (x y : Exact) : Exact :=
  if x = y then .rat 0 else x.add (Exact.mul (.rat (-1)) y)

/-- `1 / x`. -/
def Exact.inv (x : Exact) : Exact :=
  match x.asRat with
  | some a => .rat a⁻¹
  | none => .recip x

/-- `x / y`. -/
def Exact.div (x y : Exact) : Exact := x.mul y.inv

/-- `q · x` for a rational `q`. -/
def Exact.scale (q : Rat) (x : Exact) : Exact := Exact.mul (.rat q) x

/-- `x + q` for a rational `q`. -/
def Exact.shift (x : Exact) (q : Rat) : Exact := x.add (.rat q)

/-- `q mod m = q − m·floor(q/m)` on rationals (R15). -/
def ratMod (q m : Rat) : Rat := q - m * ((q / m).floor : Rat)

/-- `x mod m` (R15). -/
def Exact.mod (x : Exact) (m : Rat) : Exact :=
  match x.asRat with
  | some a => .rat (ratMod a m)
  | none => .modulo x m

/-- `frac(x) = x − floor(x)` (R15). -/
def Exact.frac (x : Exact) : Exact := x.mod 1

/-- `|x|`. -/
def Exact.abs (x : Exact) : Exact :=
  match x.asRat with
  | some a => .rat (if a < 0 then -a else a)
  | none => .absVal x

/-- `min(x, y)`. -/
def Exact.min (x y : Exact) : Exact :=
  match x.asRat, y.asRat with
  | some a, some b => .rat (if a ≤ b then a else b)
  | some _, none => .least x y
  | none, some _ => .least x y
  | none, none => .least x y

/-- `max(x, y)`. -/
def Exact.max (x y : Exact) : Exact :=
  match x.asRat, y.asRat with
  | some a, some b => .rat (if a ≤ b then b else a)
  | some _, none => .greatest x y
  | none, some _ => .greatest x y
  | none, none => .greatest x y

/-- `clamp(x, lo, hi) = min(max(x, lo), hi)` (R15). -/
def Exact.clamp (x : Exact) (lo hi : Rat) : Exact := (x.max (.rat lo)).min (.rat hi)

/-- `a < b ? x : y`. -/
def Exact.cond (a b x y : Exact) : Exact :=
  match a.asRat, b.asRat with
  | some p, some q => if p < q then x else y
  | some _, none => .ifLess a b x y
  | none, some _ => .ifLess a b x y
  | none, none => .ifLess a b x y

/-- `clampI(x, lo, hi) = min(max(x, lo), hi)` on integers (R16). -/
def clampI (x lo hi : Int) : Int := min (max x lo) hi

end Sys2Proof
end

