-- ==== Sys2Proof/Machine/Waveforms.lean ====
section
/-! DEFINITION. The waveform functions as a parameter: what an expression of the phase computes, the defaults of
41_waveform_oscillator.md, and the example configuration. -/

namespace Sys2Proof

/-- The function at the phase `x`, with the literals `lit` (00_scope.md R15). -/
def WaveFn.apply (lit : Literals) (x : Exact) : WaveFn → Exact
  | .phase => x
  | .rat q => .rat q
  | .pulseDuty => .rat lit.pulseDuty
  | .sinTurn a => .sinTurn (a.apply lit x)
  | .outside k a => .outside k (a.apply lit x)
  | .sum a b => (a.apply lit x).add (b.apply lit x)
  | .prod a b => (a.apply lit x).mul (b.apply lit x)
  | .recip a => (a.apply lit x).inv
  | .modulo a m => (a.apply lit x).mod m
  | .absVal a => (a.apply lit x).abs
  | .least a b => (a.apply lit x).min (b.apply lit x)
  | .greatest a b => (a.apply lit x).max (b.apply lit x)
  | .ifLess p q a b => Exact.cond (p.apply lit x) (q.apply lit x) (a.apply lit x) (b.apply lit x)

/-! ## Building expressions -/

/-- `q · x`. -/
def WaveFn.scale (q : Rat) (x : WaveFn) : WaveFn := .prod (.rat q) x

/-- `x + q`. -/
def WaveFn.shift (x : WaveFn) (q : Rat) : WaveFn := .sum x (.rat q)

/-- `u = frac(x)` of the phase (41_waveform_oscillator.md section 2). -/
def WaveFn.u : WaveFn := .modulo .phase 1

/-- |(y mod 2) − 1| − 0.5: the triangle of period 2 that the organ and the phaser sum (R149, R154). -/
def WaveFn.triHarmonic (y : WaveFn) : WaveFn := (WaveFn.absVal ((WaveFn.modulo y 2).shift (-1))).shift (-(1 / 2))

/-! ## The defaults (R144–R149, R154) -/

/-- WAVE[0] (R144): (|2u − 1|·2 − 1)·0.7. -/
def shapeTri : WaveFn :=
  .scale (7 / 10) (WaveFn.shift (.scale 2 (.absVal (WaveFn.shift (.scale 2 .u) (-1)))) (-1))

/-- WAVE[1] (R145): ((u < 0.875 ? u·16/7 : (1 − u)·16) − 1)·0.7. -/
def shapeTilt : WaveFn :=
  .scale (7 / 10) (WaveFn.shift
    (.ifLess .u (.rat (7 / 8)) (.scale (16 / 7) .u) (.scale 16 (WaveFn.shift (.scale (-1) .u) 1))) (-1))

/-- WAVE[2] (R146): (u − 0.5)·0.9. -/
def shapeSaw : WaveFn := .scale (9 / 10) (WaveFn.u.shift (-(1 / 2)))

/-- WAVE[3] (R147), in its equivalent form: −1/3 for u in (0.5, 1), +1/3 for u in [0, 0.5]. -/
def shapeSquare : WaveFn := .ifLess (.rat (1 / 2)) .u (.rat (-(1 / 3))) (.rat (1 / 3))

/-- WAVE[4] (R148): (u < PULSE_DUTY ? 1 : −1)·(1/3). -/
def shapePulse : WaveFn := .ifLess .u .pulseDuty (.rat (1 / 3)) (.rat (-(1 / 3)))

/-- WAVE[5] (R149), y = 4x: (|(y mod 2) − 1| − 0.5 + (|((y/2) mod 2) − 1| − 0.5)/2 − 0.1)·0.7. -/
def shapeOrgan : WaveFn :=
  .scale (7 / 10) (WaveFn.shift
    (.sum (WaveFn.triHarmonic (.scale 4 .phase)) (.scale (1 / 2) (WaveFn.triHarmonic (.scale 2 .phase)))) (-(1 / 10)))

/-- WAVE[7] (R154), y = 2x: (|(y mod 2) − 1| − 0.5 + (|((y·127/128) mod 2) − 1| − 0.5)/2) − 0.25. -/
def shapePhaser : WaveFn :=
  WaveFn.shift
    (.sum (WaveFn.triHarmonic (.scale 2 .phase)) (.scale (1 / 2) (WaveFn.triHarmonic (.scale (127 / 64) .phase)))) (-(1 / 4))

namespace Config

/-- The defaults of WAVE[0..7] (R9, D11). -/
def defaultWaves : WaveTable where
  tri := shapeTri
  tilt := shapeTilt
  saw := shapeSaw
  square := shapeSquare
  pulse := shapePulse
  organ := shapeOrgan
  phaser := shapePhaser

/-- The source's example configuration: SR = 48000, B = 2048, the default bases, literals and waveforms, free noise draws
(DESIGN CHOICE, log 2: unsafe for a run from State.reset). -/
def exampleCfg : Cfg where
  sr := 48000
  bufLen := 2048
  instrBase := defaultInstrBase
  songBase := defaultSongBase
  lit := defaultLit
  waves := defaultWaves
  noise := .free

end Config

end Sys2Proof
end

