-- ==== Sys2Proof/Machine/State.lean ====
section
/-! DEFINITION. The state of the block (10_state.md), as plain data, and its state after reset.

Beside the record S of R33 it holds the latched configuration (R31), the byte tables the block reads (20_memory.md), the
serialized stream of inputs that waits to be taken (R93), and two fields of the model's own: the number of free noise draws
made so far, and the bench the note selectors act on when they are issued alone (log 4, log 5). -/

namespace Sys2Proof.Machine

/-! ## Records of the tables -/

/-- An instrument record, decoded (30_encoding.md R112). The header bytes are kept raw. -/
structure InstrumentDef where
  notes      : Vector PackedNote 32
  editorMode : Fin 256
  speed      : Fin 256
  loopStart  : Fin 256
  loopEnd    : Fin 256
  deriving DecidableEq, Repr

/-- One channel of a pattern (30_encoding.md R120). -/
structure Channel where
  isSilent        : Bool
  instrumentIndex : Fin 64
  deriving DecidableEq, Repr

/-- A pattern record, decoded (30_encoding.md R120). -/
structure PatternRec where
  channels   : Vector Channel 4
  loopStart  : Bool
  loopEnd    : Bool
  shouldStop : Bool
  deriving DecidableEq, Repr

/-! ## Voices -/

/-- The oscillator of one voice (R51): phase in [0, 128), the stored noise sample, and the generator state, present only
when a noise realization is named. -/
structure OscState where
  phase : Exact
  ns    : Exact
  rng   : Option (BitVec 32)
  deriving DecidableEq, Repr

/-- One scheduled note render (R50). Volumes and times are rational; `n` counts elapsed samples. -/
structure RenderTask where
  wave      : Waveform
  vol       : Rat
  pitch     : Fin 64
  pitchFrom : Fin 64
  fadeIn    : Rat
  fadeOut   : Rat
  vibrato   : Bool
  speed     : Fin 256
  n         : Nat
  deriving DecidableEq, Repr

/-- One sounding instrument (R38). -/
structure Voice where
  instrIdx  : Fin 64
  instr     : InstrumentDef
  step      : Fin 33
  lastStep  : Fin 32
  alive     : Bool
  active    : Bool
  loop      : Bool
  cursor    : Nat
  task      : Option RenderTask
  pendFade  : Option Rat
  prevPitch : Option (Fin 64)
  osc       : OscState
  deriving DecidableEq, Repr

/-- The name of one of the 8 channel slots (R36). -/
inductive SlotId where
  | sfx (k : Fin 4)
  | mus (k : Fin 4)
  deriving DecidableEq, Repr

/-! ## The song -/

/-- The state of the pattern FSM (R60). -/
inductive SongMode where
  | stopped
  | playing
  deriving DecidableEq, Repr

/-- The reference voice (R62): none, the voice in `mus[k]`, or a voice that died at buffer cursor `c`. -/
inductive RefVoice where
  | none
  | live (k : Fin 4)
  | dead (c : Nat)
  deriving DecidableEq, Repr

/-- The state of the pattern sequencer (R60). -/
structure SongState where
  mode : SongMode
  pat  : Fin 64
  cur  : PatternRec
  ref  : RefVoice
  deriving DecidableEq, Repr

/-! ## Non-normal outcomes (60_exceptions.md R312) -/

/-- A configuration fault with the offending value (60_exceptions.md R311). -/
inductive CfgFault where
  | bufferSize (value : Int)
  | sampleRate (value : Int)
  deriving DecidableEq, Repr

/-- Why a PULL does not complete (60_exceptions.md R316). -/
inductive StuckReason where
  | zeroDurationLoop (slot : SlotId)
  | patternChainLoop (pattern : Fin 64)
  deriving DecidableEq, Repr

/-! ## Inputs, tables and the output buffer -/

/-- What the outside world gives the block, in the order it is taken (20_memory.md R93; 70_reset_and_hazards.md R342, R351).
`issue` of a command word is the block's command interface. `selectVoice`, which copies the voice of a slot to the bench,
and `issue` of a note word, which runs one note selector there as the block runs it inside a PULL, are the model's own
(DESIGN CHOICE, log 5: safe). -/
inductive Input where
  | issue (w : InstrWord)
  | selectVoice (slot : SlotId)
  | tableWrite (addr : Addr) (byte : Byte)
  | reset (cfg : Cfg)
  deriving DecidableEq, Repr

/-- A memory: (address, byte) pairs, addresses strictly rising, no entry holding `Config.blankByte` (log 3). -/
abbrev Memory := List Host.Cell

/-- One published sample of the output buffer: the binary32 number to_f32(tanh x) of the exact mix sum `x`
(45_voice_mixer.md R292). Its 32 bits are `Sample.f32` (Machine/Denote.lean). -/
structure Sample where
  softClipOf : Exact
  deriving DecidableEq, Repr

/-- Where a note selector issued alone acts: a voice of its own, and a mix buffer of its own from a PULL's start on (DESIGN
CHOICE, log 5: safe). No slot and no buffer of the block is touched (10_state.md R34, R36). -/
structure Bench where
  voice : Voice
  mix   : List Exact
  deriving DecidableEq, Repr

/-- The state of the machine. -/
structure State where
  cfg      : Cfg
  mix      : List Exact
  out      : List Sample
  sfx      : Vector (Option Voice) 4
  mus      : Vector (Option Voice) 4
  song     : SongState
  fault    : Option CfgFault
  stuck    : Option StuckReason
  tables   : Memory
  stream   : List Input
  draws    : Nat
  bench    : Option Bench
  deriving DecidableEq, Repr

/-- Why the machine stops. Both are raised by `step`, when a command is next and the block takes no step
(60_exceptions.md R317); no instruction's meaning raises one. -/
inductive Fault where
  /-- The block holds a configuration fault and refuses every command (R311). Safe: the spec says the block takes no step. -/
  | configuration (f : CfgFault)
  /-- A PULL did not complete and no later command is performed (R316). Safe: the spec says the block takes no step. -/
  | stuckPull (r : StuckReason)
  deriving DecidableEq, Repr

/-- Why an instruction has no meaning. -/
inductive Refusal where
  /-- An instruction of the table that the model gives no meaning yet. Safe. No arm of exec raises it. -/
  | notModelled (mnemonic : String)
  deriving DecidableEq, Repr

/-! ## Reset values (10_state.md R33, R60) -/

/-- The reset value of `song.cur`: four silent channels and no directive (R60). The instrument indices are a DESIGN
CHOICE (log 11). -/
def silentPattern : PatternRec where
  channels := Vector.replicate 4 { isSilent := true, instrumentIndex := 0 }
  loopStart := false
  loopEnd := false
  shouldStop := false

/-- The song after reset (R60). -/
def SongState.reset : SongState where
  mode := .stopped
  pat := 0
  cur := silentPattern
  ref := .none

/-- The machine right after reset with the example configuration (70_reset_and_hazards.md R340): no voice, song stopped,
silent buffers, no fault, not stuck. No table byte is written and no input waits. -/
def State.reset : State where
  cfg := Config.exampleCfg
  mix := List.replicate Config.exampleCfg.B (.rat 0)
  out := List.replicate Config.exampleCfg.B { softClipOf := .rat 0 }
  sfx := Vector.replicate 4 none
  mus := Vector.replicate 4 none
  song := SongState.reset
  fault := none
  stuck := none
  tables := []
  stream := []
  draws := 0
  bench := none

end Sys2Proof.Machine
end

