-- ==== Sys2Proof/Machine/Flags.lean ====
section
/-! DEFINITION. The flags of the block (10_state.md R64): the per-voice `alive`, `active` and `loop`, and the conditions
computed from them and from an instrument's loop bounds. There are no condition codes and no arithmetic flags. -/

namespace Sys2Proof.Machine

/-- An instrument's loop is active exactly when `loopStart < loopEnd` (30_encoding.md R113). -/
def InstrumentDef.loops (i : InstrumentDef) : Bool := decide (i.loopStart.val < i.loopEnd.val)

/-- A voice is exhausted when `step > lastStep` (43_step_sequencer.md R202). -/
def Voice.exhausted (v : Voice) : Bool := decide (v.lastStep.val < v.step.val)

/-- The loop jump is taken after step `k`: looping is enabled, the loop is active and `k = loopEnd − 1`
(43_step_sequencer.md R216). -/
def Voice.jumpsAfter (v : Voice) (k : Fin 32) : Bool :=
  v.loop && v.instr.loops && decide (k.val + 1 = v.instr.loopEnd.val)

/-- Z(v): the update of a voice that never ends (43_step_sequencer.md R223). -/
def Voice.endlessLoop (v : Voice) : Bool :=
  decide (v.instr.speed.val = 0) && v.loop && v.instr.loops
    && decide (v.instr.loopEnd.val ≤ v.lastStep.val + 1) && decide (v.step.val + 1 ≤ v.instr.loopEnd.val)

/-- A voice that `update()` found exhausted: `alive` is false (R221). -/
def Voice.die (v : Voice) : Voice := { v with alive := false }

/-- A released voice: `loop` is false (45_voice_mixer.md R274). -/
def Voice.release (v : Voice) : Voice := { v with loop := false }

end Sys2Proof.Machine
end

