-- ==== Sys2Proof/Machine/Operands.lean ====
section
/-! DEFINITION. The operands of the commands and of a voice start: which values are valid, and the index a valid one names
(45_voice_mixer.md R271; 43_step_sequencer.md R201). -/

namespace Sys2Proof.Machine

/-- A channel operand is valid when it is one of −2, −1, 0, 1, 2, 3 (R271). -/
def validChannel (ch : Int) : Bool := decide (-2 ≤ ch) && decide (ch ≤ 3)

/-- The one-shot slot an explicit channel operand 0..3 names. -/
def slotOf (ch : Int) : Option (Fin 4) :=
  if h : 0 ≤ ch ∧ ch ≤ 3 then some ⟨ch.toNat, by omega⟩ else none

/-- The instrument or pattern an operand 0..63 names (R271, R278). -/
def indexOf (n : Int) : Option (Fin 64) :=
  if h : 0 ≤ n ∧ n ≤ 63 then some ⟨n.toNat, by omega⟩ else none

/-- A value that `clampI(v, 0, 31)` gives is a step index 0..31. -/
theorem clampI_step_lt (v : Int) : (clampI v 0 31).toNat < 32 := by
  unfold clampI
  omega

/-- `clampI(v, 0, 31)` as a step index (43_step_sequencer.md R201). -/
def clampStep (v : Int) : Fin 32 := ⟨(clampI v 0 31).toNat, clampI_step_lt v⟩

/-- The first step of a voice: `clampI(off, 0, 31)` (R201). -/
def firstStep (off : Int) : Fin 33 := (clampStep off).castSucc

/-- The last playable step of a voice: `clampI(off + len − 1, 0, 31)` (R201; 10_state.md R42). R202 gives examples of a voice
that is exhausted at its start, and two of them do not agree with this clamp: with off ≤ 0 and len ≤ 0 it gives step 0 and
last step 0, with off ≥ 32 and len ≤ off − 31 it can give 31 and 31, and the voice plays one step. The model follows R201's
clamps and R202's test (DESIGN CHOICE, log 18: unsafe). -/
def lastPlayable (off len : Int) : Fin 32 := clampStep (off + len - 1)

end Sys2Proof.Machine
end

