-- ==== Sys2Proof/Machine/Ops.lean ====
section
/-! DEFINITION. The named operations over the state that every unit shares: the table memory, the decoding of table
records, the channel slots, the two recorded non-normal outcomes, and reset. -/

namespace Sys2Proof.Machine

/-! ## The table memory (20_memory.md) -/

/-- MemRead(addr, 1): the byte at a table address (00_scope.md R14); an address nothing has written holds
`Config.blankByte` (log 3). -/
def memRead : Memory → Addr → Byte
  | [], _ => Config.blankByte
  | (k, b) :: rest, a => if k = a.toNat then b else memRead rest a

/-- Put a byte at an address of a sorted list, keeping the canonical form: the value an unlisted address reads as is not
listed. -/
def memWrite : Memory → Addr → Byte → Memory
  | [], a, b => if b = Config.blankByte then [] else [(a.toNat, b)]
  | (k, x) :: rest, a, b =>
    if a.toNat < k then
      if b = Config.blankByte then (k, x) :: rest else (a.toNat, b) :: (k, x) :: rest
    else if a.toNat = k then
      if b = Config.blankByte then rest else (k, b) :: rest
    else (k, x) :: memWrite rest a b

/-- Every address of the list is above `lo`, below 2^16, rising, and holds a byte that is not the blank one. -/
def memSorted (lo : Int) : Memory → Bool
  | [] => true
  | (k, x) :: rest => decide (lo < (k : Int)) && decide (k < 65536) && decide (x ≠ Config.blankByte) && memSorted k rest

/-- The canonical form of a memory. -/
def Memory.wf (m : Memory) : Bool := memSorted (-1) m

/-- The address of byte `j` of instrument `n`: (INSTR_BASE + 68·n + j) mod 2^16 (R82). -/
def instrAddr (c : Cfg) (n : Fin 64) (j : Nat) : Addr := c.instrBase + BitVec.ofNat 16 (Config.instrBytes * n.val + j)

/-- The address of byte `j` of pattern `p`: (SONG_BASE + 4·p + j) mod 2^16 (R83). -/
def patternAddr (c : Cfg) (p : Fin 64) (j : Nat) : Addr := c.songBase + BitVec.ofNat 16 (Config.patBytes * p.val + j)

/-- Byte `j` of instrument `n`. -/
def State.instrByte (s : State) (n : Fin 64) (j : Nat) : Byte := memRead s.tables (instrAddr s.cfg n j)

/-- Byte `j` of pattern `p`. -/
def State.patternByte (s : State) (p : Fin 64) (j : Nat) : Byte := memRead s.tables (patternAddr s.cfg p j)

/-- The PackedNote word of step `i` of instrument `n`: byte 2i is bits 7:0, byte 2i+1 is bits 15:8 (30_encoding.md R110). -/
def State.noteWordAt (s : State) (n : Fin 64) (i : Nat) : NoteWord :=
  s.instrByte n (2 * i + 1) ++ s.instrByte n (2 * i)

/-- decode_instrument(n) (30_encoding.md R112): the 68 bytes of the record as they stand now. -/
def State.decodeInstrument (s : State) (n : Fin 64) : InstrumentDef where
  notes := Vector.ofFn fun i => decodeNote (s.noteWordAt n i.val)
  editorMode := byteIndex (s.instrByte n 64)
  speed := byteIndex (s.instrByte n 65)
  loopStart := byteIndex (s.instrByte n 66)
  loopEnd := byteIndex (s.instrByte n 67)

/-- One channel of a pattern, from its byte: bit 6 is isSilent, bits 5:0 the instrument index (30_encoding.md R120). -/
def decodeChannel (q : Byte) : Channel where
  isSilent := q.getLsbD 6
  instrumentIndex := (q.extractLsb' 0 6).toFin

/-- decode_pattern(p) (30_encoding.md R120): the 4 bytes of the record as they stand now. Bit 7 of byte 3 is ignored. -/
def State.decodePattern (s : State) (p : Fin 64) : PatternRec where
  channels := Vector.ofFn fun k => decodeChannel (s.patternByte p k.val)
  loopStart := (s.patternByte p 0).getLsbD 7
  loopEnd := (s.patternByte p 1).getLsbD 7
  shouldStop := (s.patternByte p 2).getLsbD 7

/-! ## Channel slots (10_state.md R36) -/

/-- What a slot holds. -/
def State.voice (s : State) : SlotId → Option Voice
  | .sfx k => s.sfx[k]
  | .mus k => s.mus[k]

/-- Put a voice, or nothing, into a slot. -/
def State.setVoice (s : State) (slot : SlotId) (v : Option Voice) : State :=
  match slot with
  | .sfx k => { s with sfx := s.sfx.set k v }
  | .mus k => { s with mus := s.mus.set k v }

/-- `mix` with sample `i` replaced (00_scope.md R14). -/
def State.setMix (s : State) (i : Nat) (x : Exact) : State := { s with mix := s.mix.set i x }

/-! ## Non-normal outcomes: what is recorded, and what then stops the block (60_exceptions.md R311, R316, R317) -/

/-- `raise CfgFault(info)`: reset records the fault and stops (R311). -/
def State.raiseCfgFault (s : State) (f : CfgFault) : State := { s with fault := some f }

/-- A PULL that does not complete: the reason is recorded and nothing else of the state changes (R316;
DESIGN CHOICE, log 6: unsafe in form). -/
def State.getStuck (s : State) (r : StuckReason) : State := { s with stuck := some r }

/-- Why the block takes no step: `fault` first, then `stuck` (R317). -/
def State.halted (s : State) : Option Fault :=
  match s.fault, s.stuck with
  | some f, _ => some (.configuration f)
  | none, some r => some (.stuckPull r)
  | none, none => none

/-! ## Reset (70_reset_and_hazards.md R340, R342) -/

/-- The configuration check (60_exceptions.md R311): the buffer size before the sample rate. -/
def checkCfg (c : Cfg) : Option CfgFault :=
  if c.bufLen < 1 then some (.bufferSize c.bufLen)
  else if c.sr < 1 then some (.sampleRate c.sr)
  else none

/-- Every state field at its reset value, for the latched configuration (R340 step 3). The tables and the inputs that
wait are outside the block and stay; so does the count of draws made (DESIGN CHOICE, log 4: safe); the bench is cleared
(log 5). -/
def State.clear (s : State) : State :=
  { s with
    mix := List.replicate s.cfg.B (.rat 0)
    out := List.replicate s.cfg.B { softClipOf := .rat 0 }
    sfx := Vector.replicate 4 none
    mus := Vector.replicate 4 none
    song := SongState.reset
    fault := none
    stuck := none
    bench := none }

/-- Reset (R340): latch the configuration; check it, and on failure record the fault and stop (every other field stays:
DEDUCED, log 9); else set every field to its reset value. -/
def State.applyReset (c : Cfg) (s : State) : State :=
  match checkCfg c with
  | some f => { s with cfg := c }.raiseCfgFault f
  | none => { s with cfg := c }.clear

end Sys2Proof.Machine
end

