-- ==== Sys2Proof/Machine/Oscillator.lean ====
section
/-! DEFINITION. The note_to_frequency_ROM (42_envelope_renderer.md R170–R173) and the waveform oscillator
(41_waveform_oscillator.md): one function for each waveform, each the whole oscillator step of that waveform, with
the waveform functions of the configuration. -/

namespace Sys2Proof.Machine

/-! ## note_to_frequency_ROM -/

/-- ROM[k] Hz (R171). Entries 18, 42, 66, 90 and 114 are the octaves of 440 Hz and rational: 110 · 2^((k − 18)/24). -/
def romEntry (k : Fin 128) : Exact :=
  if k.val % 24 = 18 then .rat (110 * 2 ^ (k.val / 24)) else .rom k

/-- pf(p) = ROM[2p] (R171). -/
def pf (p : Fin 64) : Exact := romEntry ⟨2 * p.val, by omega⟩

/-- pf(q) at any rational pitch `q` (R171): ROM[2q] where 2q is one of 0..127, else the formula of the ROM, 440·2^((q − 33)/12).
The vibrato looks it up VIB_DEPTH above its pitch (R178); with the default depth that is always a ROM entry. -/
def pfAt (q : Rat) : Exact :=
  if h : (2 * q).den = 1 ∧ 0 ≤ (2 * q).num ∧ (2 * q).num < 128 then romEntry ⟨(2 * q).num.toNat, by omega⟩ else .pitch q

/-! ## The oscillator step (R140, R141) -/

/-- What one oscillator call gives: the sample, the oscillator after it, and the count of draws made. -/
structure OscOut where
  sample : Exact
  osc    : OscState
  draws  : Nat
  deriving DecidableEq, Repr

/-- inc = f / SR, in cycles per sample (R141). -/
def phaseInc (sr : Nat) (f : Exact) : Exact := f.scale (1 / (sr : Rat))

/-- The phase after the advance: (phase + inc) mod 128 (R141). -/
def advancePhase (sr : Nat) (f : Exact) (o : OscState) : OscState :=
  { o with phase := (o.phase.add (phaseInc sr f)).mod Config.phaseMod }

/-- The step of a waveform that is a function of the phase (R141). -/
def shapedStep (fn : WaveFn) (cfg : Cfg) (f : Exact) (o : OscState) (draws : Nat) : OscOut :=
  let o' := advancePhase cfg.rate f o
  { sample := fn.apply cfg.lit o'.phase, osc := o', draws := draws }

/-- The oscillator step of WAVE 0. -/
def oscTri (cfg : Cfg) (f : Exact) (o : OscState) (draws : Nat) : OscOut := shapedStep cfg.waves.tri cfg f o draws
/-- The oscillator step of WAVE 1. -/
def oscTilt (cfg : Cfg) (f : Exact) (o : OscState) (draws : Nat) : OscOut := shapedStep cfg.waves.tilt cfg f o draws
/-- The oscillator step of WAVE 2. -/
def oscSaw (cfg : Cfg) (f : Exact) (o : OscState) (draws : Nat) : OscOut := shapedStep cfg.waves.saw cfg f o draws
/-- The oscillator step of WAVE 3. -/
def oscSquare (cfg : Cfg) (f : Exact) (o : OscState) (draws : Nat) : OscOut := shapedStep cfg.waves.square cfg f o draws
/-- The oscillator step of WAVE 4. -/
def oscPulse (cfg : Cfg) (f : Exact) (o : OscState) (draws : Nat) : OscOut := shapedStep cfg.waves.pulse cfg f o draws
/-- The oscillator step of WAVE 5. -/
def oscOrgan (cfg : Cfg) (f : Exact) (o : OscState) (draws : Nat) : OscOut := shapedStep cfg.waves.organ cfg f o draws
/-- The oscillator step of WAVE 7. -/
def oscPhaser (cfg : Cfg) (f : Exact) (o : OscState) (draws : Nat) : OscOut := shapedStep cfg.waves.phaser cfg f o draws

/-! ## Noise (R150–R153) -/

/-- One advance of the reference Galois LFSR (92_eei_decisions.md D14). -/
def lfsrAdvance (s : BitVec 32) : BitVec 32 :=
  if s.getLsbD 0 then (s >>> 1) ^^^ Config.lfsrMask else s >>> 1

/-- `k` advances of the reference LFSR. -/
def lfsrRun : Nat → BitVec 32 → BitVec 32
  | 0, s => s
  | k + 1, s => lfsrRun k (lfsrAdvance s)

/-- The draw the reference LFSR's state gives: s[15:0] / 32767.5 − 1 (D14). -/
def lfsrValue (s : BitVec 32) : Rat := ((s.extractLsb' 0 16).toNat : Rat) / (65535 / 2) - 1

/-- What one noise draw gives: the value, the generator after it, and the count of free draws made. -/
structure NoiseDraw where
  value : Exact
  rng   : Option (BitVec 32)
  draws : Nat
  deriving DecidableEq, Repr

/-- draw_noise() (R153): the next free draw, or, where the reference LFSR is the named realization, its next draw, 16
advances on (D14; log 4). -/
def drawNoise (rng : Option (BitVec 32)) (draws : Nat) : NoiseDraw :=
  match rng with
  | none => { value := .draw draws, rng := none, draws := draws + 1 }
  | some s => { value := .rat (lfsrValue (lfsrRun 16 s)), rng := some (lfsrRun 16 s), draws := draws }

/-- The generator state of a new voice (10_state.md R51): the seed, where a realization is named. -/
def NoiseSource.seed : NoiseSource → Option (BitVec 32)
  | .free => none
  | .referenceLfsr => some Config.lfsrSeed

/-- F63, the noise reference frequency: pf(NOISE_REF_PITCH) (R151). -/
def noiseRef (lit : Literals) : Exact := pf lit.noiseRefPitch

/-- The time-delta scale of a noise call, f / F63 (R151); 1 at f = F63. -/
def noiseScale (lit : Literals) (f : Exact) : Exact := if f = noiseRef lit then .rat 1 else f.div (noiseRef lit)

/-- The stored sample after a noise step: (prev + scale·r) / (1 + scale) (R152). -/
def noiseBlend (prev scale r : Exact) : Exact := (prev.add (scale.mul r)).div (scale.shift 1)

/-- The output of a noise step: clamp((prev + ns)·(4/3)·(1.75 − scale), −1, 1)·0.7 (R152). -/
def noiseOutput (prev ns scale : Exact) : Exact :=
  ((((prev.add ns).scale (4 / 3)).mul ((scale.scale (-1)).shift (7 / 4))).clamp (-1) 1).scale (7 / 10)

/-- The oscillator step of WAVE 6: the phase advances, then noise_step (R141, R150, R152). -/
def oscNoise (cfg : Cfg) (f : Exact) (o : OscState) (draws : Nat) : OscOut :=
  let o' := advancePhase cfg.rate f o
  let r := drawNoise o'.rng draws
  let ns := noiseBlend o'.ns (noiseScale cfg.lit f) r.value
  { sample := noiseOutput o'.ns ns (noiseScale cfg.lit f), osc := { o' with ns := ns, rng := r.rng }, draws := r.draws }

/-- osc_step(o, wave, f) (R140, R143): the closed dispatch on the waveform. -/
def oscStep (w : Waveform) (cfg : Cfg) (f : Exact) (o : OscState) (draws : Nat) : OscOut :=
  match w with
  | .triangle => oscTri cfg f o draws
  | .tilted => oscTilt cfg f o draws
  | .sawtooth => oscSaw cfg f o draws
  | .square => oscSquare cfg f o draws
  | .pulse => oscPulse cfg f o draws
  | .organ => oscOrgan cfg f o draws
  | .noise => oscNoise cfg f o draws
  | .phaser => oscPhaser cfg f o draws

end Sys2Proof.Machine
end

