-- ==== Sys2Proof/Machine/Envelope.lean ====
section
/-! DEFINITION. The envelope renderer (42_envelope_renderer.md): the volume and frequency of a task at a sample, one
rendered sample, and the process operation. -/

namespace Sys2Proof.Machine

/-- D = speed / SPEED_DIV s (R174). -/
def duration (lit : Literals) (speed : Fin 256) : Rat := (speed.val : Rat) / ((lit.speedDiv : Nat) : Rat)

/-- t = n / SR s (R174). -/
def elapsed (sr : Nat) (t : RenderTask) : Rat := (t.n : Rat) / (sr : Rat)

/-- A task is complete when n · SPEED_DIV ≥ speed · SR (R175). -/
def RenderTask.complete (t : RenderTask) (cfg : Cfg) : Bool := decide (t.speed.val * cfg.rate ≤ t.n * cfg.lit.speedDiv)

/-- N(speed) = ceil(speed · SR / SPEED_DIV), the samples a task consumes before it is complete (R175). -/
def taskSamples (cfg : Cfg) (speed : Fin 256) : Nat := (speed.val * cfg.rate + (cfg.lit.speedDiv - 1)) / cfg.lit.speedDiv

/-- vol(t) (R176): the branches in the order ramp-in, hold, ramp-out. -/
def RenderTask.volumeAt (lit : Literals) (task : RenderTask) (t : Rat) : Rat :=
  if t < task.fadeIn then task.vol * t / task.fadeIn
  else if t < duration lit task.speed - task.fadeOut then task.vol
  else task.vol * (duration lit task.speed - t) / task.fadeOut

/-- Glide (R177): pf(pitchFrom) + (pf(pitch) − pf(pitchFrom))·(t/D). -/
def RenderTask.glideFreq (lit : Literals) (task : RenderTask) (t : Rat) : Exact :=
  (pf task.pitchFrom).add (((pf task.pitch).sub (pf task.pitchFrom)).scale (t / duration lit task.speed))

/-- Vibrato (R178): pf(pitch) + (pf(pitch + VIB_DEPTH) − pf(pitch))·(1 + sin(2π·VIB_HZ·t))/2. -/
def RenderTask.vibratoFreq (lit : Literals) (task : RenderTask) (t : Rat) : Exact :=
  (pf task.pitch).add
    (((pfAt ((task.pitch.val : Rat) + lit.vibDepth.toRat)).sub (pf task.pitch)).mul
      (((Exact.sinTurn (.rat (lit.vibHz * t))).shift 1).scale (1 / 2)))

/-- The frequency of a task at elapsed time `t` (R177, R178). -/
def RenderTask.freqAt (lit : Literals) (task : RenderTask) (t : Rat) : Exact :=
  if task.vibrato then task.vibratoFreq lit t else task.glideFreq lit t

/-- An oscillator step of some waveform, given the configuration, the frequency, the oscillator and the count of draws. -/
abbrev OscFn := Cfg → Exact → OscState → Nat → OscOut

/-- What rendering one sample changes. -/
structure SampleOut where
  mixed : Exact
  osc   : OscState
  draws : Nat
  deriving DecidableEq, Repr

/-- One sample of a task (R181, R185, R186). With write enable: one oscillator step at the task's frequency, scaled by its
volume and ADDED to the mix sample `m`. Without: nothing is computed, and only time passes. -/
def renderSample (step : OscFn) (cfg : Cfg) (active : Bool) (task : RenderTask) (o : OscState) (draws : Nat) (m : Exact) : SampleOut :=
  if active then
    let r := step cfg (task.freqAt cfg.lit (elapsed cfg.rate task)) o draws
    { mixed := m.add (r.sample.scale (task.volumeAt cfg.lit (elapsed cfg.rate task))), osc := r.osc, draws := r.draws }
  else
    { mixed := m, osc := o, draws := draws }

/-- The task one sample later (R181). -/
def RenderTask.tick (t : RenderTask) : RenderTask := { t with n := t.n + 1 }

/-- What a run of the process operation gives: the rest of the mix buffer after it, how many samples it consumed, and the
task, oscillator and draw count after it. -/
structure ProcessOut where
  mix   : List Exact
  used  : Nat
  task  : RenderTask
  osc   : OscState
  draws : Nat
  deriving DecidableEq, Repr

/-- The loop of process (R181), over the samples from the cursor to the buffer end: it stops before the first sample at
which the task is complete, or at the buffer end. -/
def renderFrom (cfg : Cfg) (active : Bool) : List Exact → RenderTask → OscState → Nat → ProcessOut
  | [], task, o, draws => { mix := [], used := 0, task := task, osc := o, draws := draws }
  | m :: rest, task, o, draws =>
    if task.complete cfg then { mix := m :: rest, used := 0, task := task, osc := o, draws := draws }
    else
      let x := renderSample (oscStep task.wave) cfg active task o draws m
      let r := renderFrom cfg active rest task.tick x.osc x.draws
      { r with mix := x.mixed :: r.mix, used := r.used + 1 }

/-- process(v, c, we) for the head task `task` of a voice (R180, R181): the mix buffer and the oscillator after it; the new
cursor is `cursor + used`. -/
def processTask (cfg : Cfg) (active : Bool) (cursor : Nat) (mix : List Exact) (task : RenderTask) (o : OscState) (draws : Nat) :
    ProcessOut :=
  let r := renderFrom cfg active (mix.drop cursor) task o draws
  { r with mix := mix.take cursor ++ r.mix }

end Sys2Proof.Machine
end

