-- ==== Sys2Proof/Machine/Sequencer.lean ====
section
/-! DEFINITION. The step sequencer (43_step_sequencer.md): voice start, the effect policy with one scheduling function for
each effect, the step advance, and update(). -/

namespace Sys2Proof.Machine

/-! ## Voice start (R201) -/

/-- A new voice's oscillator (10_state.md R51). -/
def freshOsc (noise : NoiseSource) : OscState := { phase := .rat 0, ns := .rat 0, rng := NoiseSource.seed noise }

/-- start_voice(n, off, len, c) (R201). The instrument is decoded from the tables now. -/
def State.startVoice (s : State) (n : Fin 64) (off len : Int) (c : Nat) : Voice where
  instrIdx := n
  instr := s.decodeInstrument n
  step := firstStep off
  lastStep := lastPlayable off len
  alive := true
  active := true
  loop := true
  cursor := c
  task := none
  pendFade := none
  prevPitch := none
  osc := freshOsc s.cfg.noise

/-! ## Step advance (R216) -/

/-- A jump target is a step: it lies below `loopEnd = k + 1 ≤ 32`. -/
theorem jump_target_lt (v : Voice) (k : Fin 32) (h : v.jumpsAfter k = true) : v.instr.loopStart.val < 33 := by
  simp only [Voice.jumpsAfter, InstrumentDef.loops, Bool.and_eq_true, decide_eq_true_eq] at h
  omega

/-- The step after step `k` has been scheduled (R216): the loop start, or `k + 1`. -/
def Voice.stepAfter (v : Voice) (k : Fin 32) : Fin 33 :=
  if h : v.jumpsAfter k = true then ⟨v.instr.loopStart.val, jump_target_lt v k h⟩ else k.succ

/-! ## The effect policy (R203–R214) -/

/-- The task fields an effect rule sets (R205–R212). -/
structure Policy where
  pitch     : Fin 64
  pitchFrom : Fin 64
  fadeIn    : Rat
  fadeOut   : Rat
  vibrato   : Bool
  deriving DecidableEq, Repr

/-- The task of a scheduled step: the common fields (R203, R204), the effect's fields, and the pending fade-in in place of
the effect's fade-in where one is pending (R214). -/
def Voice.taskOf (v : Voice) (note : NoteFields) (p : Policy) : RenderTask where
  wave := note.wave
  vol := (note.volume.val : Rat) / 7
  pitch := p.pitch
  pitchFrom := p.pitchFrom
  fadeIn := v.pendFade.getD p.fadeIn
  fadeOut := p.fadeOut
  vibrato := p.vibrato
  speed := v.instr.speed
  n := 0

/-- Scheduling of step `k` under an effect's policy (R203, R213, R214, R216); `pend` is the pending fade-in the effect
leaves for the next step. -/
def Voice.scheduleAs (v : Voice) (k : Fin 32) (note : NoteFields) (p : Policy) (pend : Option Rat) : Voice :=
  { v with
    task := some (v.taskOf note p)
    prevPitch := some note.pitch
    pendFade := pend
    step := v.stepAfter k }

/-- D of a voice's instrument (42_envelope_renderer.md R174). -/
def Voice.noteTime (lit : Literals) (v : Voice) : Rat := duration lit v.instr.speed

/-- A constant pitch with the default fade-in (R205, R211, R212). -/
def Voice.heldPolicy (lit : Literals) (v : Voice) (note : NoteFields) : Policy where
  pitch := note.pitch
  pitchFrom := note.pitch
  fadeIn := lit.fadeDefaultIn.toRat * v.noteTime lit
  fadeOut := 0
  vibrato := false

/-- Effect 0, none (R205). -/
def Voice.fxNone (lit : Literals) (v : Voice) (k : Fin 32) (note : NoteFields) : Voice :=
  v.scheduleAs k note (v.heldPolicy lit note) none

/-- Effect 1, slide (R206): from the previously scheduled pitch, or SLIDE_FIRST_PITCH on the first step. -/
def Voice.fxSlide (lit : Literals) (v : Voice) (k : Fin 32) (note : NoteFields) : Voice :=
  v.scheduleAs k note
    { pitch := note.pitch, pitchFrom := v.prevPitch.getD lit.slideFirstPitch, fadeIn := 0, fadeOut := 0, vibrato := false }
    none

/-- Effect 2, vibrato (R207). -/
def Voice.fxVibrato (v : Voice) (k : Fin 32) (note : NoteFields) : Voice :=
  v.scheduleAs k note { pitch := note.pitch, pitchFrom := note.pitch, fadeIn := 0, fadeOut := 0, vibrato := true } none

/-- Effect 3, drop (R208): to DROP_TARGET_PITCH. -/
def Voice.fxDrop (lit : Literals) (v : Voice) (k : Fin 32) (note : NoteFields) : Voice :=
  v.scheduleAs k note
    { pitch := lit.dropTargetPitch, pitchFrom := note.pitch, fadeIn := 0, fadeOut := 0, vibrato := false } none

/-- Effect 4, fade-in (R209). -/
def Voice.fxFadeIn (lit : Literals) (v : Voice) (k : Fin 32) (note : NoteFields) : Voice :=
  v.scheduleAs k note
    { pitch := note.pitch, pitchFrom := note.pitch, fadeIn := lit.fade4In.toRat * v.noteTime lit,
      fadeOut := lit.fade4Out.toRat * v.noteTime lit, vibrato := false }
    none

/-- The pending fade-in effect 5 leaves (R210): FADE5_NEXT_IN / D seconds, none when D = 0. -/
def Voice.fadeOutPending (lit : Literals) (v : Voice) : Option Rat :=
  if v.instr.speed.val = 0 then none else some (lit.fade5NextIn.toRat / v.noteTime lit)

/-- Effect 5, fade-out (R210). -/
def Voice.fxFadeOut (lit : Literals) (v : Voice) (k : Fin 32) (note : NoteFields) : Voice :=
  v.scheduleAs k note
    { pitch := note.pitch, pitchFrom := note.pitch, fadeIn := 0, fadeOut := lit.fade5Out.toRat * v.noteTime lit, vibrato := false }
    (v.fadeOutPending lit)

/-- Effect 6, arpeggio-fast (R211): as effect 0; no arpeggio is performed. -/
def Voice.fxArpFast (lit : Literals) (v : Voice) (k : Fin 32) (note : NoteFields) : Voice :=
  v.scheduleAs k note (v.heldPolicy lit note) none

/-- Effect 7, arpeggio-slow (R212): as effect 0; no arpeggio is performed. -/
def Voice.fxArpSlow (lit : Literals) (v : Voice) (k : Fin 32) (note : NoteFields) : Voice :=
  v.scheduleAs k note (v.heldPolicy lit note) none

/-- The policy of the source's "other" effect row (R215), with FADE_FALLBACK_IN. The effect field has 3 bits and each
of its values has a rule of its own, so nothing selects this one. -/
def Voice.fallbackPolicy (lit : Literals) (v : Voice) (note : NoteFields) : Policy where
  pitch := note.pitch
  pitchFrom := note.pitch
  fadeIn := lit.fadeFallbackIn.toRat * v.noteTime lit
  fadeOut := 0
  vibrato := false

/-- schedule(v) of step `k` with note `p` (R203): the closed dispatch on the effect. -/
def Voice.scheduleNote (lit : Literals) (v : Voice) (k : Fin 32) (p : PackedNote) : Voice :=
  match p.effect with
  | .none => v.fxNone lit k p.fields
  | .slide => v.fxSlide lit k p.fields
  | .vibrato => v.fxVibrato k p.fields
  | .drop => v.fxDrop lit k p.fields
  | .fadeIn => v.fxFadeIn lit k p.fields
  | .fadeOut => v.fxFadeOut lit k p.fields
  | .arpFast => v.fxArpFast lit k p.fields
  | .arpSlow => v.fxArpSlow lit k p.fields

/-- The step a voice can schedule: `step`, when the voice is not exhausted (R202, R203). -/
def Voice.playable (v : Voice) : Option (Fin 32) :=
  if h : v.step.val ≤ v.lastStep.val then some ⟨v.step.val, by omega⟩ else none

/-- schedule(v) of step `k`: its note is fetched from the voice's note table (R203). -/
def Voice.schedule (lit : Literals) (v : Voice) (k : Fin 32) : Voice := v.scheduleNote lit k v.instr.notes[k]

/-! ## update() (R218–R223) -/

/-- What update() gives: the voice still alive, the voice dead, or an update that does not end. -/
inductive UpdateOut where
  | alive (v : Voice) (mix : List Exact) (draws : Nat)
  | died (v : Voice) (mix : List Exact) (draws : Nat)
  | endless
  deriving DecidableEq, Repr

/-- One pass of update()'s loop with the head task `task` (R219): process it; either the buffer end is reached, the task
stays queued and the cursor wraps to 0 (R220, R222), or the task is popped and the cursor stays where it ended. -/
def Voice.runTask (v : Voice) (cfg : Cfg) (task : RenderTask) (mix : List Exact) (draws : Nat) : Bool × Voice × List Exact × Nat :=
  let r := processTask cfg v.active v.cursor mix task v.osc draws
  if v.cursor + r.used < cfg.B then
    (true, { v with task := none, cursor := v.cursor + r.used, osc := r.osc }, r.mix, r.draws)
  else
    (false, { v with task := some r.task, cursor := 0, osc := r.osc }, r.mix, r.draws)

/-- The loop of update() (R219) cut after `fuel` passes: `endless` says it had not ended by then. -/
def updateLoop (cfg : Cfg) : Nat → Voice → List Exact → Nat → UpdateOut
  | 0, _, _, _ => .endless
  | fuel + 1, v, mix, draws =>
    if v.cursor < cfg.B then
      match v.task with
      | some task =>
        match v.runTask cfg task mix draws with
        | (true, v', mix', draws') => updateLoop cfg fuel v' mix' draws'
        | (false, v', mix', draws') => .alive v' mix' draws'
      | none =>
        match v.playable with
        | none => .died v.die mix draws
        | some k => updateLoop cfg fuel (v.schedule cfg.lit k) mix draws
    else .alive v mix draws

/-- A number of passes within which every update that ends has ended (DEDUCED, log 7: safe): a pass either schedules one of at most 33
steps without consuming a sample, or consumes at least one of the B samples, or pops the task that was queued. -/
def updateFuel (cfg : Cfg) : Nat := 2 * cfg.B + 80

/-- update(v) (R219), with the endless case recognized by Z(v) (R223). -/
def updateVoice (cfg : Cfg) (v : Voice) (mix : List Exact) (draws : Nat) : UpdateOut :=
  if v.endlessLoop then .endless else updateLoop cfg (updateFuel cfg) v mix draws

end Sys2Proof.Machine
end

