-- ==== Sys2Proof/Machine/Song.lean ====
section
/-! DEFINITION. The pattern sequencer FSM (44_pattern_sequencer.md): setUpPattern, the reference voice, the song tick and
the transitions; and the update of one channel slot, which the mixer shares. -/

namespace Sys2Proof.Machine

/-! ## Updating channel slots -/

/-- The reference voice after the voice in a slot has died at cursor `c` (R246): a live reference in that slot becomes
dead; nothing else changes. -/
def refAfterDeath (ref : RefVoice) (slot : SlotId) (c : Nat) : RefVoice :=
  match slot with
  | .sfx _ => ref
  | .mus k => if ref = .live k then .dead c else ref

/-- update() of the voice in a slot, if any (45_voice_mixer.md R291; R246): a dead voice is detached in the same operation
(10_state.md R37). An update that does not end is the error, with the slot's name (60_exceptions.md R316). -/
def State.updateSlot (s : State) (slot : SlotId) : Except StuckReason State :=
  match s.voice slot with
  | none => .ok s
  | some v =>
    match updateVoice s.cfg v s.mix s.draws with
    | .alive v' mix draws => .ok ({ s with mix := mix, draws := draws }.setVoice slot (some v'))
    | .died v' mix draws =>
      .ok ({ s with mix := mix, draws := draws, song := { s.song with ref := refAfterDeath s.song.ref slot v'.cursor } }.setVoice
        slot none)
    | .endless => .error (.zeroDurationLoop slot)

/-- update() of the slots of a list, in order; the first that does not end stops it (60_exceptions.md R317). -/
def State.updateSlots (s : State) : List SlotId → Except StuckReason State
  | [] => .ok s
  | slot :: rest =>
    match s.updateSlot slot with
    | .ok s' => s'.updateSlots rest
    | .error r => .error r

/-- The one-shot slots in index order (R291). -/
def sfxSlots : List SlotId := [.sfx 0, .sfx 1, .sfx 2, .sfx 3]

/-- The music slots in index order (R246). -/
def musSlots : List SlotId := [.mus 0, .mus 1, .mus 2, .mus 3]

/-! ## setUpPattern (R241–R244) -/

/-- The buffer cursor of a music slot's voice. A `live` reference always names a slot that holds a voice (the invariant
of Safety.lean); for an empty slot the answer is 0, as with no reference (DESIGN CHOICE, log 12: safe). -/
def State.musCursor (s : State) (k : Fin 4) : Nat :=
  match s.mus[k] with
  | some v => v.cursor
  | none => 0

/-- carried_cursor() (R242). -/
def State.carriedCursor (s : State) : Nat :=
  match s.song.ref with
  | .none => 0
  | .live k => s.musCursor k
  | .dead c => c

/-- What setUpPattern puts into music slot `k` (R241): nothing, or a fresh voice over steps 0..31 at the
carried cursor. Its length, 32 in R241, is the API default of the source's §6 (92_eei_decisions.md D23), which 00_scope.md R10 names
DEFAULT_LENGTH (log 14). -/
def State.patternVoice (s : State) (r : PatternRec) (c : Nat) (k : Fin 4) : Option Voice :=
  if r.channels[k].isSilent then none
  else some (s.startVoice r.channels[k].instrumentIndex 0 s.cfg.lit.defaultLength c)

/-- The greater of two candidates for the reference voice (R243): greatest speed, and the lower channel on a tie. `best` is
the winner among the lower channels. -/
def longer (best : Option (Fin 4 × Nat)) (k : Fin 4) (speed : Nat) : Option (Fin 4 × Nat) :=
  match best with
  | none => some (k, speed)
  | some (j, sj) => if sj < speed then some (k, speed) else some (j, sj)

/-- The candidate of greatest speed among the voices of a list of channels that satisfy `p` (R243). -/
def longestOf (mus : Vector (Option Voice) 4) (p : Voice → Bool) (best : Option (Fin 4 × Nat)) : List (Fin 4) → Option (Fin 4 × Nat)
  | [] => best
  | k :: rest =>
    match mus[k] with
    | some v => if p v then longestOf mus p (longer best k v.instr.speed.val) rest else longestOf mus p best rest
    | none => longestOf mus p best rest

/-- The channels in index order. -/
def channelList : List (Fin 4) := [0, 1, 2, 3]

/-- Every voice of the list of channels loops (R243). -/
def allLoop (mus : Vector (Option Voice) 4) : List (Fin 4) → Bool
  | [] => true
  | k :: rest =>
    match mus[k] with
    | some v => v.instr.loops && allLoop mus rest
    | none => allLoop mus rest

/-- select_ref (R243): among the non-silent channels, all of them when all loop, else those that do not loop; the one of
greatest speed, the least channel on a tie. -/
def selectRef (mus : Vector (Option Voice) 4) : RefVoice :=
  match longestOf mus (fun v => allLoop mus channelList || !v.instr.loops) none channelList with
  | none => .none
  | some (k, _) => .live k

/-- setUpPattern(p) (R241): the carried cursor is read before any slot is written. -/
def State.setUpPattern (s : State) (p : Fin 64) : State :=
  let r := s.decodePattern p
  let mus := Vector.ofFn fun k => s.patternVoice r s.carriedCursor k
  { s with mus := mus, song := { s.song with cur := r, ref := selectRef mus } }

/-- music_start(n) (R252): Playing(n), then setUpPattern(n); no tick. -/
def State.musicStart (s : State) (n : Fin 64) : State :=
  { s with song := { s.song with mode := .playing, pat := n } }.setUpPattern n

/-! ## Completion (R245–R251) -/

/-- Entering Stopped (R251): the music slots are cleared; `pat`, `cur` and `ref` stay. -/
def State.enterStopped (s : State) : State :=
  { s with mus := Vector.replicate 4 none, song := { s.song with mode := .stopped } }

/-- The greatest pattern at or before `q` whose loopStart directive is set in the table now, else 0 (R248). -/
def State.loopScan (s : State) : (q : Nat) → q < 64 → Fin 64
  | 0, _ => 0
  | q + 1, h =>
    if (s.patternByte ⟨q + 1, h⟩ 0).getLsbD 7 then ⟨q + 1, h⟩ else s.loopScan q (by omega)

/-- The pattern after the current one completes (R247–R249): none when the FSM stops. -/
def State.nextPattern (s : State) : Option (Fin 64) :=
  if s.song.cur.shouldStop then none
  else if s.song.cur.loopEnd then some (s.loopScan s.song.pat.val s.song.pat.isLt)
  else if h : s.song.pat.val + 1 < 64 then some ⟨s.song.pat.val + 1, h⟩
  else none

/-- A transition to pattern `p` (R248, R249), before the tick runs again. -/
def State.moveTo (s : State) (p : Fin 64) : State :=
  { s with song := { s.song with pat := p } }.setUpPattern p

/-- song_tick() (R246) with the re-run of R250. `seen` holds the (pattern, carried cursor) pairs of the set-ups of this PULL;
a pair that occurs again is a chain that never ends (R255). At most 64·B different pairs exist, and `fuel` is above that
(DEDUCED, log 7: safe). -/
def songTick : Nat → List (Fin 64 × Nat) → State → Except StuckReason State
  | 0, _, s => .error (.patternChainLoop s.song.pat)
  | fuel + 1, seen, s =>
    match s.song.mode with
    | .stopped => .ok s
    | .playing =>
      match s.updateSlots musSlots with
      | .error r => .error r
      | .ok s' =>
        match s'.song.ref with
        | .none => .ok s'
        | .live _ => .ok s'
        | .dead c =>
          match s'.nextPattern with
          | none => .ok s'.enterStopped
          | some p =>
            if (p, c) ∈ seen then .error (.patternChainLoop p)
            else songTick fuel ((p, c) :: seen) (s'.moveTo p)

/-- More passes than there are (pattern, cursor) pairs (R255). -/
def songFuel (cfg : Cfg) : Nat := 64 * cfg.B + 2

end Sys2Proof.Machine
end

