-- ==== Sys2Proof/Machine/Commands.lean ====
section
/-! DEFINITION. The meanings of the command words (45_voice_mixer.md): NOP, SFX_STOP, SFX_RELEASE, SFX_PLAY, MUSIC, PULL and
the reserved encodings. No command raises an exception (60_exceptions.md R310): every error is a noop. -/

namespace Sys2Proof.Machine

/-- What the meaning of an instruction answers with. -/
abbrev Result := Host.Outcome State Fault Refusal

/-- NOP (R270): changes no state. -/
def execNop (_ignored : BitVec 28) (s : State) : Result := .next s

/-- Every one-shot slot empty (R272). -/
def State.stopAllSfx (s : State) : State := { s with sfx := Vector.replicate 4 none }

/-- SFX_STOP(ch) (R272): −1 stops every one-shot channel, 0..3 that one; any other value is a noop. -/
def execSfxStop (ch : Int) (_ignored : BitVec 16) (s : State) : Result :=
  if ch = -1 then .next s.stopAllSfx
  else
    match slotOf ch with
    | some k => .next (s.setVoice (.sfx k) none)
    | none => .next s

/-- SFX_RELEASE(ch) (R274): clears `loop` of the voice in slot 0..3; an empty slot or another value is a noop. -/
def execSfxRelease (ch : Int) (_ignored : BitVec 16) (s : State) : Result :=
  match slotOf ch with
  | none => .next s
  | some k =>
    match s.sfx[k] with
    | some v => .next (s.setVoice (.sfx k) (some v.release))
    | none => .next s

/-- What exclusivity leaves of a one-shot slot when instrument `n` is triggered (R276). -/
def exceptInstrument (n : Fin 64) (o : Option Voice) : Option Voice :=
  match o with
  | some v => if v.instrIdx = n then none else some v
  | none => none

/-- The stop-first step (R276): every one-shot voice of instrument `n` is discarded. -/
def State.stopInstrument (s : State) (n : Fin 64) : State :=
  { s with sfx := Vector.ofFn fun k => exceptInstrument n s.sfx[k] }

/-- The least free one-shot slot (R276). -/
def State.firstFree (s : State) : Option (Fin 4) := channelList.find? fun k => s.sfx[k].isNone

/-- The slot a channel operand resolves to, after the stop-first step (R276): −2 allocates none; −1 the first free one;
0..3 that one. -/
def State.resolveChannel (s : State) (ch : Int) : Option (Fin 4) :=
  if ch = -2 then none
  else if ch = -1 then s.firstFree
  else slotOf ch

/-- SFX_PLAY after its validation (R276). -/
def State.sfxPlay (s : State) (n : Fin 64) (ch off len : Int) : State :=
  let s1 := s.stopInstrument n
  match s1.resolveChannel ch with
  | none => s1
  | some k => s1.setVoice (.sfx k) (some (s1.startVoice n off len 0))

/-- SFX_PLAY(n, ch, off, len) (R275–R277): an invalid operand makes the whole command a noop. -/
def execSfxPlay (n ch off len : Int) (s : State) : Result :=
  match indexOf n with
  | none => .next s
  | some i => if validChannel ch then .next (s.sfxPlay i ch off len) else .next s

/-- A reserved SFX word (30_encoding.md R106): a noop. -/
def execSfxReserved (_n : Int) (_ignored : BitVec 20) (s : State) : Result := .next s

/-- MUSIC(n) (R278): 0..63 starts the song at pattern n; any other value is a noop. fadeLenMs and channelMask are ignored. -/
def execMusic (n : Int) (_fadeMask : BitVec 20) (s : State) : Result :=
  match indexOf n with
  | none => .next s
  | some p => .next (s.musicStart p)

/-! ## PULL (R290–R293) -/

/-- Step 1 (R290): every mix sample 0. -/
def State.zeroMix (s : State) : State := { s with mix := List.replicate s.cfg.B (.rat 0) }

/-- Step 2 (R291): the one-shot slots in index order, then the song tick. -/
def State.renderVoices (s : State) : Except StuckReason State :=
  match s.updateSlots sfxSlots with
  | .ok s' => songTick (songFuel s'.cfg) [] s'
  | .error r => .error r

/-- Step 3 (R292): out[i] is to_f32(tanh(mix[i])). -/
def State.publish (s : State) : State := { s with out := s.mix.map Sample.mk }

/-- PULL (R290–R293): one whole buffer is rendered and published; or the PULL does not complete, and the block records why
and is stuck (60_exceptions.md R316). -/
def execPull (_ignored : BitVec 28) (s : State) : Result :=
  match s.zeroMix.renderVoices with
  | .ok s' => .next s'.publish
  | .error r => .next (s.getStuck r)

/-- A reserved opcode 0x4–0x7 (30_encoding.md R106): a noop. -/
def execReservedOp47 (_op : BitVec 2) (_ignored : BitVec 28) (s : State) : Result := .next s

/-- A reserved opcode 0x8–0xF (30_encoding.md R106): a noop. -/
def execReservedOp8F (_op : BitVec 3) (_ignored : BitVec 28) (s : State) : Result := .next s

end Sys2Proof.Machine
end

