-- ==== Sys2Proof/Machine/Selectors.lean ====
section
/-! DEFINITION. The meanings of the note selectors, issued alone (30_encoding.md R132; DESIGN CHOICE,
log 5: safe, the block itself has no such command).

Inside a PULL the step sequencer runs a note's effect rule once for each scheduled step, and the renderer runs a note's
waveform rule once for each written sample. These meanings run ONE such act, with the functions the PULL itself uses, on the
BENCH: a copy of a slot's voice, and a mix buffer that stands as a PULL's start leaves it. So the slots are written by
commands alone (10_state.md R36), and `mix` during a PULL alone (R34). Where the bench cannot take the act (no voice on it;
for an effect, a task still queued or an exhausted voice; for a waveform, no task, a task already complete, or the buffer
end) nothing happens. -/

namespace Sys2Proof.Machine

/-- The bench of a voice: the voice, and a mix buffer of zeros (45_voice_mixer.md R290). -/
def benchOf (cfg : Cfg) (v : Voice) : Bench := { voice := v, mix := List.replicate cfg.B (.rat 0) }

/-- The input `selectVoice`: a copy of the voice in the slot is put on the bench; an empty slot leaves it empty. -/
def State.selectVoice (s : State) (slot : SlotId) : State := { s with bench := (s.voice slot).map (benchOf s.cfg) }

/-- One scheduling by an effect's rule, on the bench (43_step_sequencer.md R203, R218). -/
def State.scheduleOnBench (s : State) (rule : Voice → Fin 32 → Voice) : State :=
  match s.bench with
  | none => s
  | some b =>
    match b.voice.task, b.voice.playable with
    | none, some k => { s with bench := some { b with voice := rule b.voice k } }
    | none, none => s
    | some _, _ => s

/-- FX_NONE (R205). -/
def execFxNone (note : NoteFields) (s : State) : Result := .next (s.scheduleOnBench fun v k => v.fxNone s.cfg.lit k note)
/-- FX_SLIDE (R206). -/
def execFxSlide (note : NoteFields) (s : State) : Result := .next (s.scheduleOnBench fun v k => v.fxSlide s.cfg.lit k note)
/-- FX_VIBRATO (R207). -/
def execFxVibrato (note : NoteFields) (s : State) : Result := .next (s.scheduleOnBench fun v k => v.fxVibrato k note)
/-- FX_DROP (R208). -/
def execFxDrop (note : NoteFields) (s : State) : Result := .next (s.scheduleOnBench fun v k => v.fxDrop s.cfg.lit k note)
/-- FX_FADE_IN (R209). -/
def execFxFadeIn (note : NoteFields) (s : State) : Result := .next (s.scheduleOnBench fun v k => v.fxFadeIn s.cfg.lit k note)
/-- FX_FADE_OUT (R210). -/
def execFxFadeOut (note : NoteFields) (s : State) : Result := .next (s.scheduleOnBench fun v k => v.fxFadeOut s.cfg.lit k note)
/-- FX_ARP_FAST (R211). -/
def execFxArpFast (note : NoteFields) (s : State) : Result := .next (s.scheduleOnBench fun v k => v.fxArpFast s.cfg.lit k note)
/-- FX_ARP_SLOW (R212). -/
def execFxArpSlow (note : NoteFields) (s : State) : Result := .next (s.scheduleOnBench fun v k => v.fxArpSlow s.cfg.lit k note)

/-- The voice after one rendered sample. -/
def Voice.afterSample (v : Voice) (task : RenderTask) (o : OscState) : Voice :=
  { v with task := some task.tick, cursor := v.cursor + 1, osc := o }

/-- One sample of the bench voice's task with a waveform's oscillator step: one pass of process's loop
(42_envelope_renderer.md R181, R186). -/
def State.renderOnBench (s : State) (step : OscFn) : State :=
  match s.bench with
  | none => s
  | some b =>
    match b.voice.task, b.mix[b.voice.cursor]? with
    | some task, some m =>
      if task.complete s.cfg then s
      else
        let x := renderSample step s.cfg b.voice.active task b.voice.osc s.draws m
        { s with
          bench := some { voice := b.voice.afterSample task x.osc, mix := b.mix.set b.voice.cursor x.mixed }
          draws := x.draws }
    | some _, none => s
    | none, some _ => s
    | none, none => s

/-- WAVE_TRI (41_waveform_oscillator.md R144). The custom bit has no effect (30_encoding.md R114). -/
def execWaveTri (_custom : Bool) (s : State) : Result := .next (s.renderOnBench oscTri)
/-- WAVE_TILT (R145). -/
def execWaveTilt (_custom : Bool) (s : State) : Result := .next (s.renderOnBench oscTilt)
/-- WAVE_SAW (R146). -/
def execWaveSaw (_custom : Bool) (s : State) : Result := .next (s.renderOnBench oscSaw)
/-- WAVE_SQUARE (R147). -/
def execWaveSquare (_custom : Bool) (s : State) : Result := .next (s.renderOnBench oscSquare)
/-- WAVE_PULSE (R148). -/
def execWavePulse (_custom : Bool) (s : State) : Result := .next (s.renderOnBench oscPulse)
/-- WAVE_ORGAN (R149). -/
def execWaveOrgan (_custom : Bool) (s : State) : Result := .next (s.renderOnBench oscOrgan)
/-- WAVE_NOISE (R152). -/
def execWaveNoise (_custom : Bool) (s : State) : Result := .next (s.renderOnBench oscNoise)
/-- WAVE_PHASER (R154). -/
def execWavePhaser (_custom : Bool) (s : State) : Result := .next (s.renderOnBench oscPhaser)

end Sys2Proof.Machine
end

