-- ==== Sys2Proof/Machine/Dispatch.lean ====
section
/-! DEFINITION. exec: one arm for each instruction, each one call of its meaning. -/

namespace Sys2Proof.Machine

def exec (i : Instr) (s : State) : Host.Outcome State Fault Refusal :=
  match i with
  | .nop ignored => Sys2Proof.Machine.execNop ignored s
  | .sfxStop ch ignored => Sys2Proof.Machine.execSfxStop ch ignored s
  | .sfxRelease ch ignored => Sys2Proof.Machine.execSfxRelease ch ignored s
  | .sfxPlay n ch off len => Sys2Proof.Machine.execSfxPlay n ch off len s
  | .sfxReserved n ignored => Sys2Proof.Machine.execSfxReserved n ignored s
  | .music n fadeMask => Sys2Proof.Machine.execMusic n fadeMask s
  | .pull ignored => Sys2Proof.Machine.execPull ignored s
  | .reservedOp47 op ignored => Sys2Proof.Machine.execReservedOp47 op ignored s
  | .reservedOp8F op ignored => Sys2Proof.Machine.execReservedOp8F op ignored s
  | .fxNone note => Sys2Proof.Machine.execFxNone note s
  | .fxSlide note => Sys2Proof.Machine.execFxSlide note s
  | .fxVibrato note => Sys2Proof.Machine.execFxVibrato note s
  | .fxDrop note => Sys2Proof.Machine.execFxDrop note s
  | .fxFadeIn note => Sys2Proof.Machine.execFxFadeIn note s
  | .fxFadeOut note => Sys2Proof.Machine.execFxFadeOut note s
  | .fxArpFast note => Sys2Proof.Machine.execFxArpFast note s
  | .fxArpSlow note => Sys2Proof.Machine.execFxArpSlow note s
  | .waveTri custom => Sys2Proof.Machine.execWaveTri custom s
  | .waveTilt custom => Sys2Proof.Machine.execWaveTilt custom s
  | .waveSaw custom => Sys2Proof.Machine.execWaveSaw custom s
  | .waveSquare custom => Sys2Proof.Machine.execWaveSquare custom s
  | .wavePulse custom => Sys2Proof.Machine.execWavePulse custom s
  | .waveOrgan custom => Sys2Proof.Machine.execWaveOrgan custom s
  | .waveNoise custom => Sys2Proof.Machine.execWaveNoise custom s
  | .wavePhaser custom => Sys2Proof.Machine.execWavePhaser custom s

end Sys2Proof.Machine
end

