-- ==== Sys2Proof/Machine/Fetch.lean ====
section
/-! DEFINITION. How the block takes its next input, and how an instruction is put where the next step takes it.

The block runs no code and has no program counter (10_state.md R32; 20_memory.md R91): its instructions come, one at a time
and in order, from the stream of inputs (R93). -/

namespace Sys2Proof.Machine

/-- What the next step does. -/
inductive Pending where
  /-- No input waits: the block is idle. -/
  | idle
  /-- A command waits, but the block takes no step (60_exceptions.md R317). -/
  | halted (f : Fault)
  /-- An instruction word is taken from the stream and run. -/
  | run (w : InstrWord) (s : State)
  /-- An input that is no instruction has its effect. -/
  | done (s : State)
  deriving DecidableEq, Repr

/-- An external write of a table byte between operations (70_reset_and_hazards.md R351; 20_memory.md R96). -/
def State.writeTable (s : State) (a : Addr) (b : Byte) : State := { s with tables := memWrite s.tables a b }

/-- The input the next step takes (20_memory.md R93). Resets and table writes come from outside the block and take effect
whatever its state (70_reset_and_hazards.md R342, R351); a faulted or stuck block takes nothing else (60_exceptions.md R317). -/
def State.pending (s : State) : Pending :=
  match s.stream with
  | [] => .idle
  | .reset c :: rest => .done ({ s with stream := rest }.applyReset c)
  | .tableWrite a b :: rest => .done ({ s with stream := rest }.writeTable a b)
  | .selectVoice slot :: rest =>
    match s.halted with
    | some f => .halted f
    | none => .done ({ s with stream := rest }.selectVoice slot)
  | .issue w :: rest =>
    match s.halted with
    | some f => .halted f
    | none => .run w { s with stream := rest }

/-! ## Placing an instruction (DESIGN CHOICE, log 13: safe) -/

/-- A voice on which a note selector can act: a fresh voice of instrument 0 of speed 1. -/
def State.probeVoice (s : State) : Voice :=
  let v := s.startVoice 0 0 s.cfg.lit.defaultLength 0
  { v with instr := { v.instr with speed := 1 } }

/-- The bench voice can be scheduled by an effect's rule. -/
def State.effectReady (s : State) : Bool :=
  match s.bench with
  | some b => b.voice.task.isNone && b.voice.playable.isSome
  | none => false

/-- The bench voice can render a sample. -/
def State.sampleReady (s : State) : Bool :=
  match s.bench with
  | some b =>
    match b.voice.task with
    | some task => !task.complete s.cfg && decide (b.voice.cursor < b.mix.length)
    | none => false
  | none => false

/-- `s` with a bench on which the instruction word can act; a command word needs none. -/
def State.readyFor (s : State) (w : InstrWord) : State :=
  match w with
  | .command _ => s
  | .noteEffect _ => if s.effectReady then s else { s with bench := some (benchOf s.cfg s.probeVoice) }
  | .noteWave _ => if s.sampleReady then s else { s with bench := some (benchOf s.cfg (s.probeVoice.schedule s.cfg.lit 0)) }

/-- `s` with an instruction word at the head of its stream. -/
def State.withWord (s : State) (w : InstrWord) : State :=
  let s' := s.readyFor w
  { s' with stream := .issue w :: s'.stream }

end Sys2Proof.Machine
end

