-- ==== Sys2Proof/Machine/Step.lean ====
section
/-! DEFINITION. One step of the machine: the next input of the stream is taken and performed to completion
(20_memory.md R93; 45_voice_mixer.md R279). -/

namespace Sys2Proof.Machine

/-- One step. With no input waiting the block is idle (DESIGN CHOICE, log 8: safe); a command that waits at a faulted or stuck block stops the
machine with the reason (60_exceptions.md R311, R316). -/
def step (s : State) : Host.Outcome State Fault Refusal :=
  match s.pending with
  | .idle => .next s
  | .halted f => .fault f
  | .run w s' => exec (decode w) s'
  | .done s' => .next s'

/-- `s` with the instruction of `nbits` bits `w` placed so that the very next step runs it (DESIGN CHOICE,
log 13: safe). Bits of no instruction
word leave `s` as it is. -/
def State.withFetchWord (s : State) (nbits w : Nat) : State :=
  match instrWordOf nbits w with
  | .ok v => s.withWord v
  | .error _ => s

end Sys2Proof.Machine
end

