-- ==== Sys2Proof/Machine/Denote.lean ====
section
/-! DEFINITION. What the data of the signal path stands for: the real number of an expression, and the binary32 word of a
published sample. The machine never evaluates these; claims about sound are stated in them. -/

namespace Sys2Proof

/-- What the model leaves free in the signal path: a sequence of noise draws, any real numbers in [−1, 1] (00_scope.md R18;
41_waveform_oscillator.md R153), and the outside functions, any functions of the real numbers (the parameter WAVE, 00_scope.md
R9; log 14). A claim holds for every one of them. -/
structure Valuation where
  value   : Nat → ℝ
  lower   : ∀ n, -1 ≤ value n
  upper   : ∀ n, value n ≤ 1
  outside : Nat → ℝ → ℝ

/-- `ROM[k] = 440 · 2^((k/2 − 33)/12)` Hz (42_envelope_renderer.md R171). -/
noncomputable def romHz (k : Nat) : ℝ := 440 * (2 : ℝ) ^ ((((k : ℝ) / 2) - 33) / 12)

/-- The real number an expression stands for, given what the model leaves free (00_scope.md R15). -/
noncomputable def Exact.val (d : Valuation) : Exact → ℝ
  | .rat q => (q : ℝ)
  | .rom k => romHz k.val
  | .pitch q => 440 * (2 : ℝ) ^ (((q : ℝ) - 33) / 12)
  | .draw n => d.value n
  | .sinTurn x => Real.sin (2 * Real.pi * x.val d)
  | .outside k x => d.outside k (x.val d)
  | .sum x y => x.val d + y.val d
  | .prod x y => x.val d * y.val d
  | .recip x => (x.val d)⁻¹
  | .modulo x m => x.val d - (m : ℝ) * (⌊x.val d / (m : ℝ)⌋ : ℝ)
  | .absVal x => |x.val d|
  | .least x y => Min.min (x.val d) (y.val d)
  | .greatest x y => Max.max (x.val d) (y.val d)
  | .ifLess a b x y => if a.val d < b.val d then x.val d else y.val d

/-- The real function a waveform expression stands for, with the literals `lit` (00_scope.md R15). -/
noncomputable def WaveFn.real (lit : Literals) (d : Valuation) (x : ℝ) : WaveFn → ℝ
  | .phase => x
  | .rat q => (q : ℝ)
  | .pulseDuty => (lit.pulseDuty : ℝ)
  | .sinTurn a => Real.sin (2 * Real.pi * a.real lit d x)
  | .outside k a => d.outside k (a.real lit d x)
  | .sum a b => a.real lit d x + b.real lit d x
  | .prod a b => a.real lit d x * b.real lit d x
  | .recip a => (a.real lit d x)⁻¹
  | .modulo a m => a.real lit d x - (m : ℝ) * (⌊a.real lit d x / (m : ℝ)⌋ : ℝ)
  | .absVal a => |a.real lit d x|
  | .least a b => Min.min (a.real lit d x) (b.real lit d x)
  | .greatest a b => Max.max (a.real lit d x) (b.real lit d x)
  | .ifLess p q a b => if p.real lit d x < q.real lit d x then a.real lit d x else b.real lit d x

/-! ## Rounding to binary32 (00_scope.md R15) -/

/-- The integer nearest to `y`, an even one when two are equally near. -/
noncomputable def roundHalfEven (y : ℝ) : Int :=
  if y - (⌊y⌋ : ℝ) < 1 / 2 then ⌊y⌋
  else if 1 / 2 < y - (⌊y⌋ : ℝ) then ⌊y⌋ + 1
  else if ⌊y⌋ % 2 = 0 then ⌊y⌋
  else ⌊y⌋ + 1

/-- The exponent of the binary32 binade of `y > 0`: floor(log₂ y), at least −126 (the subnormals). -/
noncomputable def f32Exponent (y : ℝ) : Int := max (Int.log 2 y) (-126)

/-- The low 31 bits of the binary32 number nearest to `y > 0`: with `m` the rounded significand in units of 2^(e − 23),
the fields exponent and fraction together are (e + 126)·2^23 + m, a carry out of the fraction included; a sum that
reaches the infinity pattern is infinity. -/
noncomputable def f32Magnitude (y : ℝ) : Nat :=
  min ((f32Exponent y + 126) * 2 ^ 23 + roundHalfEven (y / (2 : ℝ) ^ (f32Exponent y - 23))).toNat 0x7F800000

/-- `to_f32(x)`: IEEE-754 binary32, round to nearest, ties to even (R15). Zero is +0.0; a negative number keeps its sign
bit when it rounds to zero. -/
noncomputable def toF32 (x : ℝ) : BitVec 32 :=
  if x = 0 then 0#32
  else if x < 0 then BitVec.ofNat 32 (0x80000000 + f32Magnitude (-x))
  else BitVec.ofNat 32 (f32Magnitude x)

/-- The binary32 word the host receives for a published sample: to_f32(tanh(mix)) (45_voice_mixer.md R292). -/
noncomputable def Machine.Sample.f32 (d : Valuation) (s : Machine.Sample) : BitVec 32 :=
  toF32 (Real.tanh (s.softClipOf.val d))

/-- A published sample as bytes: the binary32 word, least significant byte first (20_memory.md R89). -/
noncomputable def Machine.Sample.bytes (d : Valuation) (s : Machine.Sample) : List Byte :=
  [(s.f32 d).extractLsb' 0 8, (s.f32 d).extractLsb' 8 8, (s.f32 d).extractLsb' 16 8, (s.f32 d).extractLsb' 24 8]

/-- The output buffer as the host serializes it: sample 0 first (20_memory.md R89). -/
noncomputable def Machine.State.outBytes (d : Valuation) (s : Machine.State) : List Byte :=
  s.out.flatMap fun x => x.bytes d

end Sys2Proof
end

