-- ==== Sys2Proof/Machine/Signal.lean ====
section
/-! DEFINITION. The laws of the signal path in real numbers, each written straight from its rule of the spec. The machine
does not use them: claims compare the expressions the machine builds (Machine/Oscillator.lean, Machine/Envelope.lean) with
them. -/

namespace Sys2Proof.Signal

open Sys2Proof.Machine

/-! ## Primitives (00_scope.md R15) -/

/-- `frac(x) = x − floor(x)`. -/
noncomputable def frac (x : ℝ) : ℝ := x - (⌊x⌋ : ℝ)

/-- `x mod m = x − m·floor(x/m)`. -/
noncomputable def mod (x m : ℝ) : ℝ := x - m * (⌊x / m⌋ : ℝ)

/-- `clamp(x, lo, hi) = min(max(x, lo), hi)`. -/
noncomputable def clamp (x lo hi : ℝ) : ℝ := min (max x lo) hi

/-! ## Pitch and frequency (42_envelope_renderer.md) -/

/-- `pf(q) = 440 · 2^((q − 33)/12)` (R171). -/
noncomputable def pitchHz (q : ℝ) : ℝ := 440 * (2 : ℝ) ^ ((q - 33) / 12)

/-- `D = speed / SPEED_DIV` (R174). -/
noncomputable def noteSeconds (lit : Literals) (speed : Fin 256) : ℝ := (speed.val : ℝ) / (lit.speedDiv : ℝ)

/-- The glide law (R177). -/
noncomputable def glide (pitchFrom pitch D t : ℝ) : ℝ := pitchHz pitchFrom + (pitchHz pitch - pitchHz pitchFrom) * (t / D)

/-- The vibrato law (R178), with VIB_HZ and VIB_DEPTH. -/
noncomputable def vibrato (lit : Literals) (pitch t : ℝ) : ℝ :=
  pitchHz pitch + (pitchHz (pitch + (lit.vibDepth.toRat : ℝ)) - pitchHz pitch) *
    (1 + Real.sin (2 * Real.pi * (lit.vibHz : ℝ) * t)) / 2

/-- The frequency of a task at elapsed time `t` (R177, R178). -/
noncomputable def taskFreq (lit : Literals) (T : RenderTask) (t : ℝ) : ℝ :=
  if T.vibrato then vibrato lit (T.pitch.val : ℝ) t
  else glide (T.pitchFrom.val : ℝ) (T.pitch.val : ℝ) (noteSeconds lit T.speed) t

/-- The volume law (R176). -/
noncomputable def volume (V fadeIn fadeOut D t : ℝ) : ℝ :=
  if t < fadeIn then V * t / fadeIn
  else if t < D - fadeOut then V
  else V * (D - t) / fadeOut

/-- The volume of a task at elapsed time `t` (R176). -/
noncomputable def taskVolume (lit : Literals) (T : RenderTask) (t : ℝ) : ℝ :=
  volume (T.vol : ℝ) (T.fadeIn : ℝ) (T.fadeOut : ℝ) (noteSeconds lit T.speed) t

/-! ## The oscillator (41_waveform_oscillator.md) -/

/-- The phase after the advance (R141). -/
noncomputable def nextPhase (phase f sr : ℝ) : ℝ := mod (phase + f / sr) 128

/-- WAVE[0] (R144). -/
noncomputable def triangle (x : ℝ) : ℝ := (|2 * frac x - 1| * 2 - 1) * 0.7

/-- WAVE[1] (R145). -/
noncomputable def tilted (x : ℝ) : ℝ :=
  ((if frac x < 0.875 then frac x * 16 / 7 else (1 - frac x) * 16) - 1) * 0.7

/-- WAVE[2] (R146). -/
noncomputable def sawtooth (x : ℝ) : ℝ := (frac x - 0.5) * 0.9

/-- WAVE[3] (R147), in the sine form of the rule. -/
noncomputable def square (x : ℝ) : ℝ := (if 0 ≤ Real.sin (2 * Real.pi * x) then 1 else -1) * (1 / 3)

/-- WAVE[4] (R148), with PULSE_DUTY. -/
noncomputable def pulse (lit : Literals) (x : ℝ) : ℝ := (if frac x < (lit.pulseDuty : ℝ) then 1 else -1) * (1 / 3)

/-- WAVE[5] (R149), y = 4x. -/
noncomputable def organ (x : ℝ) : ℝ :=
  (|mod (4 * x) 2 - 1| - 0.5 + (|mod (4 * x / 2) 2 - 1| - 0.5) / 2 - 0.1) * 0.7

/-- WAVE[7] (R154), y = 2x. -/
noncomputable def phaser (x : ℝ) : ℝ :=
  (|mod (2 * x) 2 - 1| - 0.5 + (|mod (2 * x * 127 / 128) 2 - 1| - 0.5) / 2) - 0.25

/-- `scale = f / F63`, where F63 is the frequency of NOISE_REF_PITCH (R151). -/
noncomputable def noiseScale (lit : Literals) (f : ℝ) : ℝ := f / pitchHz (lit.noiseRefPitch.val : ℝ)

/-- `o.ns` after a noise step (R152). -/
noncomputable def noiseNext (prev scale r : ℝ) : ℝ := (prev + scale * r) / (1 + scale)

/-- The output of a noise step (R152). -/
noncomputable def noiseOutput (prev ns scale : ℝ) : ℝ := clamp ((prev + ns) * (4 / 3) * (1.75 - scale)) (-1) 1 * 0.7

end Sys2Proof.Signal
end

