-- ==== Sys2Proof/Safety.lean ====
section
/-! DEFINITION. What a safe run keeps: the invariants of 10_state.md, and the terms claims are stated in. -/

namespace Sys2Proof.Machine

/-- A configuration reset accepts (10_state.md R31; 60_exceptions.md R311). -/
abbrev CfgValid (c : Cfg) : Prop := 1 ≤ c.sr ∧ 1 ≤ c.bufLen

/-- The ranges of a task's fields (10_state.md R50); its speed is its voice's instrument's (43_step_sequencer.md R203). -/
structure RenderTask.Ok (speed : Fin 256) (t : RenderTask) : Prop where
  vol_nonneg : 0 ≤ t.vol
  vol_le_one : t.vol ≤ 1
  fadeIn_nonneg : 0 ≤ t.fadeIn
  fadeOut_nonneg : 0 ≤ t.fadeOut
  same_speed : t.speed = speed

/-- A voice in a slot between operations: alive (R37), active (R44), its cursor inside the buffer (R46), its task and
pending fade in range (R48, R50), a generator state exactly where a realization is named (R51). -/
structure Voice.Ok (cfg : Cfg) (v : Voice) : Prop where
  is_alive : v.alive = true
  is_active : v.active = true
  cursor_lt : v.cursor < cfg.B
  task_ok : ∀ t, v.task = some t → t.Ok v.instr.speed
  pend_nonneg : ∀ p, v.pendFade = some p → 0 ≤ p
  rng_named : v.osc.rng.isSome = true ↔ cfg.noise = .referenceLfsr

/-- A bench (log 5): its buffer is one of a PULL, and its voice is in range as a voice is during a PULL, its cursor the buffer
end at most (R38, R48, R50, R51). -/
structure Bench.Ok (cfg : Cfg) (b : Bench) : Prop where
  mix_length : b.mix.length = cfg.B
  cursor_le : b.voice.cursor ≤ cfg.B
  task_ok : ∀ t, b.voice.task = some t → t.Ok b.voice.instr.speed
  pend_nonneg : ∀ p, b.voice.pendFade = some p → 0 ≤ p
  rng_named : b.voice.osc.rng.isSome = true ↔ cfg.noise = .referenceLfsr

/-- No instrument is held by two one-shot slots (45_voice_mixer.md R277). -/
def State.Exclusive (s : State) : Prop :=
  ∀ (j k : Fin 4) (v w : Voice), s.sfx[j] = some v → s.sfx[k] = some w → v.instrIdx = w.instrIdx → j = k

/-- The song between operations: a live reference names a slot that holds a voice, a dead one a cursor inside the buffer
(R62), and no music voice exists while the FSM is stopped (44_pattern_sequencer.md R251). -/
structure State.SongOk (s : State) : Prop where
  live_ref : ∀ k, s.song.ref = .live k → s.mus[k].isSome = true
  dead_ref : ∀ c, s.song.ref = .dead c → c < s.cfg.B
  stopped_silent : s.song.mode = .stopped → ∀ k : Fin 4, s.mus[k] = none

/-- What holds of a block without a configuration fault (R31, R33, R36, R37). -/
structure State.Running (s : State) : Prop where
  cfg_valid : CfgValid s.cfg
  mix_length : s.mix.length = s.cfg.B
  out_length : s.out.length = s.cfg.B
  voices_ok : ∀ slot v, s.voice slot = some v → v.Ok s.cfg
  exclusive : s.Exclusive
  song_ok : s.SongOk
  bench_ok : ∀ b, s.bench = some b → b.Ok s.cfg

/-- The invariant of the machine: the table memory is in canonical form, and a block without a configuration fault is
`Running`. -/
structure State.Inv (s : State) : Prop where
  tables_wf : Memory.wf s.tables = true
  running : s.fault = none → s.Running

/-- The signal state of a voice: phase in [0, 128) and stored noise sample in [−1, 1], whatever the draws
(10_state.md R51; 41_waveform_oscillator.md R141, R152). -/
structure Voice.SignalOk (v : Voice) : Prop where
  phase_lower : ∀ d, 0 ≤ v.osc.phase.val d
  phase_upper : ∀ d, v.osc.phase.val d < 128
  ns_lower : ∀ d, -1 ≤ v.osc.ns.val d
  ns_upper : ∀ d, v.osc.ns.val d ≤ 1

/-- Every voice's signal state is in range, the bench's included. -/
def State.SignalInv (s : State) : Prop :=
  s.fault = none → (∀ slot v, s.voice slot = some v → v.SignalOk) ∧ ∀ b, s.bench = some b → b.voice.SignalOk

/-! ## What a voice start leaves (43_step_sequencer.md R201) -/

/-- `v` is the voice that start_voice(n, off, len, c) gives in state `s`, field by field. -/
structure IsFreshVoice (s : State) (n : Fin 64) (off len : Int) (c : Nat) (v : Voice) : Prop where
  instrIdx_eq : v.instrIdx = n
  instr_eq : v.instr = s.decodeInstrument n
  step_eq : (v.step.val : Int) = min (max off 0) 31
  lastStep_eq : (v.lastStep.val : Int) = min (max (off + len - 1) 0) 31
  alive_eq : v.alive = true
  active_eq : v.active = true
  loop_eq : v.loop = true
  cursor_eq : v.cursor = c
  task_eq : v.task = none
  pendFade_eq : v.pendFade = none
  prevPitch_eq : v.prevPitch = none
  phase_eq : v.osc.phase = .rat 0
  ns_eq : v.osc.ns = .rat 0
  rng_eq : v.osc.rng = if s.cfg.noise = .referenceLfsr then some 0x00000001#32 else none

/-! ## The reference voice (44_pattern_sequencer.md R242, R243) -/

/-- A voice the reference may be chosen from: any, when every voice loops; else one that does not loop. -/
def RefCandidate (mus : Vector (Option Voice) 4) (v : Voice) : Prop :=
  (∀ (j : Fin 4) (w : Voice), mus[j] = some w → w.instr.loopStart.val < w.instr.loopEnd.val) ∨
    ¬ v.instr.loopStart.val < v.instr.loopEnd.val

/-- `ref` is the reference voice of the music slots: none when every slot is empty; else the candidate of greatest speed,
the least channel on a tie. -/
def IsReference (mus : Vector (Option Voice) 4) (ref : RefVoice) : Prop :=
  ((∀ k : Fin 4, mus[k] = none) ∧ ref = .none) ∨
    ∃ (k : Fin 4) (v : Voice), ref = .live k ∧ mus[k] = some v ∧ RefCandidate mus v ∧
      ∀ (j : Fin 4) (w : Voice), mus[j] = some w → RefCandidate mus w →
        w.instr.speed < v.instr.speed ∨ (w.instr.speed = v.instr.speed ∧ k ≤ j)

/-- `c` is the carried cursor (R242): 0 with no reference, the cursor of a live one, the index where a dead one died. -/
def IsCarriedCursor (s : State) (c : Nat) : Prop :=
  (s.song.ref = .none ∧ c = 0) ∨ (∃ k v, s.song.ref = .live k ∧ s.mus[k] = some v ∧ c = v.cursor) ∨ s.song.ref = .dead c

/-- The music slots `mus` are what setUpPattern(p) puts there with carried cursor `c` (R241): voices of the API's default length
(92_eei_decisions.md D23), the literal DEFAULT_LENGTH, by default R241's 32 (log 14). -/
def IsPatternAt (s : State) (p : Fin 64) (c : Nat) (mus : Vector (Option Voice) 4) : Prop :=
  ∀ k : Fin 4,
    ((s.decodePattern p).channels[k].isSilent = true → mus[k] = none) ∧
    ((s.decodePattern p).channels[k].isSilent = false →
      ∃ v, mus[k] = some v ∧ IsFreshVoice s (s.decodePattern p).channels[k].instrumentIndex 0 s.cfg.lit.defaultLength c v)

/-- The music slots `mus` are what setUpPattern(p) puts there in state `s` (R241). -/
def IsPatternSetUp (s : State) (p : Fin 64) (mus : Vector (Option Voice) 4) : Prop :=
  ∃ c, IsCarriedCursor s c ∧ IsPatternAt s p c mus

/-! ## The note selectors, issued alone (log 5) -/

/-- The bench voice can schedule step `k`: no task is queued, and `k` is its step and playable (R203, R218). -/
structure State.CanSchedule (s : State) (b : Bench) (k : Fin 32) : Prop where
  on_bench : s.bench = some b
  no_task : b.voice.task = none
  at_step : b.voice.step.val = k.val
  playable : k.val ≤ b.voice.lastStep.val

/-- What an effect's rule sets, and what scheduling does whatever the effect (43_step_sequencer.md R203, R204, R213, R214,
R216): scheduling step `k` with a note of effect `e` sets the task fields `rule lit note v`, leaves the pending fade-in `pend lit v`,
and changes nothing else of the voice. -/
def SchedulesWith (e : Effect) (rule : Literals → NoteFields → Voice → Policy) (pend : Literals → Voice → Option Rat) : Prop :=
  ∀ (lit : Literals) (v : Voice) (k : Fin 32) (note : NoteFields),
    ∃ st : Fin 33,
      st.val = (if v.loop = true ∧ v.instr.loopStart.val < v.instr.loopEnd.val ∧ k.val + 1 = v.instr.loopEnd.val
        then v.instr.loopStart.val else k.val + 1) ∧
      v.scheduleNote lit k { effect := e, fields := note } = { v with
        task := some {
          wave := note.wave
          vol := (note.volume.val : Rat) / 7
          pitch := (rule lit note v).pitch
          pitchFrom := (rule lit note v).pitchFrom
          fadeIn := (match v.pendFade with | some p => p | none => (rule lit note v).fadeIn)
          fadeOut := (rule lit note v).fadeOut
          vibrato := (rule lit note v).vibrato
          speed := v.instr.speed
          n := 0 }
        prevPitch := some note.pitch
        pendFade := pend lit v
        step := st }

/-- The bench voice can render a sample of `task` onto the mix sample `m`: the task is queued and not complete, and `m`
stands at the cursor (42_envelope_renderer.md R175, R181). -/
structure State.CanRender (s : State) (b : Bench) (task : RenderTask) (m : Exact) : Prop where
  on_bench : s.bench = some b
  queued : b.voice.task = some task
  at_cursor : b.mix[b.voice.cursor]? = some m
  not_complete : task.n * s.cfg.lit.speedDiv < task.speed.val * s.cfg.rate

/-- The state after one sample of the bench voice's task: the bench's mix sample at the cursor is `mixed`, one more sample
is consumed, and the cursor is one further. -/
def State.afterRender (s : State) (b : Bench) (task : RenderTask) (mixed : Exact) (o : OscState) (draws : Nat) : State :=
  { s with
    bench := some {
      voice := { b.voice with task := some { task with n := task.n + 1 }, cursor := b.voice.cursor + 1, osc := o }
      mix := b.mix.set b.voice.cursor mixed }
    draws := draws }

/-- The elapsed time of a task, n / SR (R174). -/
noncomputable def State.time (s : State) (task : RenderTask) : ℝ := (task.n : ℝ) / (s.cfg.rate : ℝ)

/-- One oscillator call of a waveform that is a function of the phase: the phase advances by f/SR modulo 128, the sample is
the configuration's waveform function `fn` at the new phase, and nothing else of the oscillator changes
(41_waveform_oscillator.md R140, R141). -/
def OscillatesAs (step : OscFn) (fn : WaveTable → WaveFn) : Prop :=
  ∀ (cfg : Cfg) (f : Exact) (o : OscState) (draws : Nat),
    ∃ phase : Exact,
      (step cfg f o draws).osc = { o with phase := phase } ∧ (step cfg f o draws).draws = draws ∧
      ∀ d,
        phase.val d = Signal.nextPhase (o.phase.val d) (f.val d) (cfg.rate : ℝ) ∧
        (step cfg f o draws).sample.val d = (fn cfg.waves).real cfg.lit d (phase.val d)

/-- Instruction `i`, run on an active bench voice that can render, advances the phase and ADDS the task's volume times the
configuration's waveform function `fn` at the new phase to the mix sample at the cursor (41_waveform_oscillator.md R141;
42_envelope_renderer.md R176–R178, R186); nothing else changes. -/
def RendersShape (i : Instr) (fn : WaveTable → WaveFn) : Prop :=
  ∀ (s : State) (b : Bench) (task : RenderTask) (m : Exact), s.CanRender b task m → b.voice.active = true →
    ∃ mixed phase : Exact,
      exec i s = .next (s.afterRender b task mixed { b.voice.osc with phase := phase } s.draws) ∧
      ∀ d,
        phase.val d = Signal.nextPhase (b.voice.osc.phase.val d) (Signal.taskFreq s.cfg.lit task (s.time task)) (s.cfg.rate : ℝ) ∧
        mixed.val d = m.val d + Signal.taskVolume s.cfg.lit task (s.time task) * (fn s.cfg.waves).real s.cfg.lit d (phase.val d)

/-- Every waveform function of a configuration stays in [−1, 1] (R140, R155), where the outside functions are those of `d`. The
defaults always do. -/
def WavesInRange (lit : Literals) (d : Valuation) (w : WaveTable) : Prop :=
  ∀ fn ∈ [w.tri, w.tilt, w.saw, w.square, w.pulse, w.organ, w.phaser], ∀ x : ℝ, |fn.real lit d x| ≤ 1

/-! ## Lifetimes and control -/

/-- A voice after `j` completed updates, each on a buffer of its own: none once it is dead, or when an update does not end
(43_step_sequencer.md R224). -/
def Voice.afterUpdates (cfg : Cfg) : Nat → Voice → Nat → Option Voice
  | 0, v, _ => some v
  | j + 1, v, draws =>
    match updateVoice cfg v (List.replicate cfg.B (.rat 0)) draws with
    | .alive v' _ draws' => v'.afterUpdates cfg j draws'
    | .died _ _ _ => none
    | .endless => none

/-- The samples a voice that takes no loop jump still needs: what its queued task lacks, and N(speed) for each step left. -/
def Voice.samplesLeft (v : Voice) (cfg : Cfg) : Nat :=
  (match v.task with
    | some t => taskSamples cfg v.instr.speed - t.n
    | none => 0) + (v.lastStep.val + 1 - v.step.val) * taskSamples cfg v.instr.speed

/-- Z(v), as 43_step_sequencer.md R223 states it: the update of the voice does not end. -/
def Voice.Z (v : Voice) : Prop :=
  v.instr.speed.val = 0 ∧ v.loop = true ∧ v.instr.loopStart.val < v.instr.loopEnd.val ∧
    (v.instr.loopEnd.val : Int) - 1 ≤ (v.lastStep.val : Int) ∧ (v.step.val : Int) ≤ (v.instr.loopEnd.val : Int) - 1

/-- A voice that takes no loop jump: its loop flag or its instrument's loop is off, or no step still to come is the loop's
last (30_encoding.md R113; 10_state.md R45; 43_step_sequencer.md R216; 44_pattern_sequencer.md R256). -/
def Voice.NoJumps (v : Voice) : Prop :=
  v.loop = false ∨ ¬ v.instr.loopStart.val < v.instr.loopEnd.val ∨ v.instr.loopEnd.val ≤ v.step.val ∨
    v.lastStep.val + 1 < v.instr.loopEnd.val

/-- The next update of the voice finds it exhausted at buffer index `c` (43_step_sequencer.md R221): it takes no loop jump,
and the samples it still needs end there, before the buffer end. -/
def Voice.EndsAt (v : Voice) (cfg : Cfg) (c : Nat) : Prop :=
  v.NoJumps ∧ c = v.cursor + v.samplesLeft cfg ∧ c < cfg.B

/-- What one update makes of a slot that holds no endless voice: an empty one stays so; a voice whose samples end in the
buffer is detached; every other one lives on at cursor 0 with a task queued and its identity kept, and one that takes no loop
jump needs that many fewer samples (43_step_sequencer.md R219–R222). -/
def PlayedTo (cfg : Cfg) (before after : Option Voice) : Prop :=
  (before = none → after = none) ∧
  ∀ v, before = some v →
    ((∃ c, v.EndsAt cfg c) → after = none) ∧
    ((∀ c, ¬ v.EndsAt cfg c) → ∃ v', after = some v' ∧ v'.instrIdx = v.instrIdx ∧ v'.instr = v.instr ∧ v'.cursor = 0 ∧
      v'.task ≠ none ∧ (v.NoJumps → v'.samplesLeft cfg = v.samplesLeft cfg - (cfg.B - v.cursor)))

/-- A voice after its next step has been scheduled and its task has ended; an exhausted voice stays as it is. -/
def Voice.playStep (lit : Literals) (v : Voice) : Voice :=
  match v.playable with
  | some k => { v.schedule lit k with task := none }
  | none => v

/-- A voice after `i` steps. -/
def Voice.playSteps (lit : Literals) : Nat → Voice → Voice
  | 0, v => v
  | i + 1, v => (v.playStep lit).playSteps lit i

/-! ## Pattern transitions within one PULL (44_pattern_sequencer.md R246–R255) -/

/-- The record of the pattern current after `i` transitions: the latched one, or the table's (R241). -/
def State.recordAt (s : State) (i : Nat) (p : Fin 64) : PatternRec := if i = 0 then s.song.cur else s.decodePattern p

/-- The pattern that follows `p`, current after `i` transitions, by its record's directives (R247–R249). -/
def State.nextAt (s : State) (i : Nat) (p : Fin 64) : Option (Fin 64) :=
  { s with song := { s.song with pat := p, cur := s.recordAt i p } }.nextPattern

/-- `m` transitions of one PULL from state `s`: pattern `p i`, its music slots `mus i` and its reference voice `ref i`, where
the i-th transition happens at buffer cursor `c i`. Index 0 is the pattern current at the start. Each pattern but the last
completes where its reference voice ends, without an endless update, and the next one is set up at that cursor; no (pattern,
cursor) pair is set up twice (R255). -/
structure State.Chain (s : State) (m : Nat) (p : Nat → Fin 64) (c : Nat → Nat) (mus : Nat → Vector (Option Voice) 4)
    (ref : Nat → RefVoice) : Prop where
  start : p 0 = s.song.pat ∧ mus 0 = s.mus ∧ ref 0 = s.song.ref
  no_endless : ∀ i, i < m → ∀ (j : Fin 4) (v : Voice), (mus i)[j] = some v → ¬ v.Z
  ends : ∀ i, i < m → ∃ (j : Fin 4) (v : Voice), ref i = .live j ∧ (mus i)[j] = some v ∧ v.EndsAt s.cfg (c (i + 1))
  next : ∀ i, i < m → s.nextAt i (p i) = some (p (i + 1))
  set_up : ∀ i, i < m → IsPatternAt s (p (i + 1)) (c (i + 1)) (mus (i + 1)) ∧ IsReference (mus (i + 1)) (ref (i + 1))
  new_pairs : ∀ i j, 1 ≤ i → i < j → j ≤ m → (p i, c i) ≠ (p j, c j)

/-- The block plays a song, and no one-shot voice's update is endless. -/
def State.PlaysSong (s : State) : Prop :=
  s.Running ∧ s.song.mode = .playing ∧ ∀ (k : Fin 4) (v : Voice), s.sfx[k] = some v → ¬ v.Z

/-! ## What a PULL renders (45_voice_mixer.md R290–R292; 44_pattern_sequencer.md R246) -/

/-- What the voices of a PULL render into: the mix buffer, and the count of draws made. -/
structure Rendering where
  mix   : List Exact
  draws : Nat
  deriving DecidableEq, Repr

/-- One slot's update within a PULL (45_voice_mixer.md R291; 10_state.md R37): an empty slot does nothing; a voice becomes
what update() makes of it, on the buffer as it then is, or is detached, having died at the cursor `died`. -/
def SlotRun (cfg : Cfg) (slot : Option Voice) (x : Rendering) (slot' : Option Voice) (x' : Rendering) (died : Option Nat) : Prop :=
  match slot with
  | none => slot' = none ∧ x' = x ∧ died = none
  | some v =>
    (∃ v', updateVoice cfg v x.mix x.draws = .alive v' x'.mix x'.draws ∧ slot' = some v' ∧ died = none) ∨
    (∃ v', updateVoice cfg v x.mix x.draws = .died v' x'.mix x'.draws ∧ slot' = none ∧ died = some v'.cursor)

/-- The updates of four slots in index order, each rendering onto what those before it left (R291). -/
def SlotsRun (cfg : Cfg) (slots : Vector (Option Voice) 4) (x : Rendering) (slots' : Vector (Option Voice) 4) (x' : Rendering)
    (died : Fin 4 → Option Nat) : Prop :=
  ∃ x1 x2 x3 : Rendering,
    SlotRun cfg slots[(0 : Fin 4)] x slots'[(0 : Fin 4)] x1 (died 0) ∧
    SlotRun cfg slots[(1 : Fin 4)] x1 slots'[(1 : Fin 4)] x2 (died 1) ∧
    SlotRun cfg slots[(2 : Fin 4)] x2 slots'[(2 : Fin 4)] x3 (died 2) ∧
    SlotRun cfg slots[(3 : Fin 4)] x3 slots'[(3 : Fin 4)] x' (died 3)

/-- The reference voice after the updates of the music slots: a live one that died is dead at its cursor (R246). -/
def refAfter (ref : RefVoice) (died : Fin 4 → Option Nat) : RefVoice :=
  match ref with
  | .none => .none
  | .live k => match died k with
    | some c => .dead c
    | none => .live k
  | .dead c => .dead c

/-- A song tick with its re-runs, in a block with the configuration and tables of `s` (44_pattern_sequencer.md R246–R251): from
the song, the music slots and the rendering before it to those after it. -/
inductive SongRun (s : State) : SongState → Vector (Option Voice) 4 → Rendering →
    SongState → Vector (Option Voice) 4 → Rendering → Prop where
  /-- The FSM is stopped: nothing happens. -/
  | stopped {song : SongState} {mus : Vector (Option Voice) 4} {x : Rendering} (mode : song.mode = .stopped) :
    SongRun s song mus x song mus x
  /-- The music voices are updated, and the pattern is not complete. -/
  | goesOn {song : SongState} {mus mus' : Vector (Option Voice) 4} {x x' : Rendering} {died : Fin 4 → Option Nat}
      (mode : song.mode = .playing) (slots : SlotsRun s.cfg mus x mus' x' died)
      (incomplete : ∀ c, refAfter song.ref died ≠ .dead c) :
    SongRun s song mus x { song with ref := refAfter song.ref died } mus' x'
  /-- The pattern is complete and no other follows (R247, R249, R251). -/
  | stops {song : SongState} {mus mus' : Vector (Option Voice) 4} {x x' : Rendering} {died : Fin 4 → Option Nat} {c : Nat}
      (mode : song.mode = .playing) (slots : SlotsRun s.cfg mus x mus' x' died) (complete : refAfter song.ref died = .dead c)
      (next : { s with song := song }.nextPattern = none) :
    SongRun s song mus x { song with mode := .stopped, ref := .dead c } (Vector.replicate 4 none) x'
  /-- The pattern is complete: the next one is set up at the cursor of its death, and the tick runs again (R248–R250). -/
  | movesOn {song song'' : SongState} {mus mus' mus'' set : Vector (Option Voice) 4} {x x' x'' : Rendering}
      {died : Fin 4 → Option Nat} {c : Nat} {p : Fin 64} {ref : RefVoice}
      (mode : song.mode = .playing) (slots : SlotsRun s.cfg mus x mus' x' died) (complete : refAfter song.ref died = .dead c)
      (next : { s with song := song }.nextPattern = some p) (voices : IsPatternAt s p c set) (reference : IsReference set ref)
      (again : SongRun s { song with pat := p, cur := s.decodePattern p, ref := ref } set x' song'' mus'' x'') :
    SongRun s song mus x song'' mus'' x''

/-- The PULL that leads from `s` to `t`: on a buffer of zeros the one-shot voices are updated, then the song is ticked; the
slots, the song, the mix and the draws of `t` are what they leave, and every output sample is the soft clip of its mix sum
(45_voice_mixer.md R290–R292). -/
def PullRun (s t : State) : Prop :=
  ∃ (x : Rendering) (died : Fin 4 → Option Nat),
    SlotsRun s.cfg s.sfx { mix := List.replicate s.cfg.B (.rat 0), draws := s.draws } t.sfx x died ∧
    SongRun s s.song s.mus x t.song t.mus { mix := t.mix, draws := t.draws } ∧ t.out = t.mix.map Sample.mk

/-- The mix buffer an update leaves; an update that does not end leaves none. -/
def UpdateOut.mix : UpdateOut → List Exact
  | .alive _ m _ => m
  | .died _ m _ => m
  | .endless => []

/-- The same outcome of an update, with another mix buffer. -/
def UpdateOut.withMix : UpdateOut → List Exact → UpdateOut
  | .alive v _ d, m => .alive v m d
  | .died v _ d, m => .died v m d
  | .endless, _ => .endless

/-- Two voices that differ at most in their oscillators (their sound). -/
def Voice.SameControl (v w : Voice) : Prop := { v with osc := w.osc } = w

/-- Two slots that hold nothing, or voices that differ at most in their oscillators. -/
def SameSlot : Option Voice → Option Voice → Prop
  | none, none => True
  | some v, some w => v.SameControl w
  | none, some _ => False
  | some _, none => False

/-- Two benches that hold nothing, or hold voices that differ at most in their oscillators and buffers of one length. -/
def SameBench : Option Bench → Option Bench → Prop
  | none, none => True
  | some a, some b => a.voice.SameControl b.voice ∧ a.mix.length = b.mix.length
  | none, some _ => False
  | some _, none => False

/-- Two states that differ at most in sound: the values in the buffers, the oscillators and the draws made. -/
structure State.SameControl (s t : State) : Prop where
  cfg_eq : s.cfg = t.cfg
  mix_length : s.mix.length = t.mix.length
  slots : ∀ slot, SameSlot (s.voice slot) (t.voice slot)
  song_eq : s.song = t.song
  fault_eq : s.fault = t.fault
  stuck_eq : s.stuck = t.stuck
  tables_eq : s.tables = t.tables
  stream_eq : s.stream = t.stream
  benches : SameBench s.bench t.bench

/-- A silent voice: its queued task and every note of its instrument have volume 0. -/
def Voice.Silent (v : Voice) : Prop :=
  (∀ t, v.task = some t → t.vol = 0) ∧ ∀ k : Fin 32, v.instr.notes[k].fields.volume = 0

end Sys2Proof.Machine
end

