-- ==== Sys2Proof/Certificates/Slice0/Obligations.lean ====
section
/-! DEFINITION. The statements about the model, each from the rules of spec/ its docstring names. -/

open Sys2Proof Sys2Proof.Machine

/-! ## Encoding -/

/-- The example words of 30_encoding.md R107 decode to the commands the rule gives. -/
def Obligations.SpecWordsDecode : Prop :=
  decodeCommand 0x00000000#32 = .nop 0#28 ∧
  decodeCommand 0x105F0020#32 = .sfxPlay 5 (-1) 0 32 ∧
  decodeCommand 0x10020408#32 = .sfxPlay 0 2 4 8 ∧
  decodeCommand 0x1FFF0000#32 = .sfxStop (-1) 0#16 ∧
  decodeCommand 0x1FF30000#32 = .sfxStop 3 0#16 ∧
  decodeCommand 0x1FE10000#32 = .sfxRelease 1 0#16 ∧
  decodeCommand 0x20000000#32 = .music 0 0#20 ∧
  decodeCommand 0x20A00000#32 = .music 10 0#20 ∧
  decodeCommand 0x30000000#32 = .pull 0#28

/-- Every well-formed instruction, with every operand value its encoding admits, is what its own word decodes to
(30_encoding.md R102, R103, R111). -/
def Obligations.DecodeEncode : Prop :=
  ∀ i : Instr, i.wf = true → decode (encode i) = i

/-- Every word decodes to a well-formed instruction, and no bit of it is dropped but the bits a note_wave row does not read
(30_encoding.md R102, R103, R111, R132). -/
def Obligations.EncodeDecode : Prop :=
  (∀ w : Word, (decode (.command w)).wf = true ∧ encode (decode (.command w)) = .command w) ∧
  (∀ w : NoteWord, (decode (.noteEffect w)).wf = true ∧ encode (decode (.noteEffect w)) = .noteEffect w) ∧
  (∀ w : NoteWord, (decode (.noteWave w)).wf = true ∧ encode (decode (.noteWave w)) = .noteWave (w &&& 0x81C0#16))

/-- The decoder agrees with the opcode table: a command word's first matching row is its instruction's (R101, R103), and a
note word matches exactly one note_effect row and exactly one note_wave row (R132). -/
def Obligations.RowOfWord : Prop :=
  (∀ w : Word, (commandRows.find? fun r => r.matchedBy w).map (fun r => r.mnemonic) = some (decodeCommand w).mnemonic) ∧
  (∀ w : NoteWord, (effectRows.filter fun r => r.matchedBy w).map (fun r => r.mnemonic) = [(decodeNoteEffect w).mnemonic]) ∧
  (∀ w : NoteWord, (waveRows.filter fun r => r.matchedBy w).map (fun r => r.mnemonic) = [(decodeNoteWave w).mnemonic])

/-- The fields of a PackedNote by their bit positions, as numbers (30_encoding.md R111). -/
def Obligations.NoteFieldPlaces : Prop :=
  ∀ w : NoteWord,
    (decodeNote w).fields.pitch.val = w.toNat % 64 ∧
    (waveformBits (decodeNote w).fields.wave).toNat = w.toNat / 64 % 8 ∧
    (decodeNote w).fields.volume.val = w.toNat / 512 % 8 ∧
    (effectBits (decodeNote w).effect).toNat = w.toNat / 4096 % 8 ∧
    (decodeNote w).fields.custom.toNat = w.toNat / 32768 ∧
    waveformId (decodeNote w).fields = 8 * (w.toNat / 32768) + w.toNat / 64 % 8

/-- The table records are read at the addresses of 20_memory.md R82 and R83 and decoded as 30_encoding.md R110, R112 and
R120 say; the addresses wrap modulo 2^16. -/
def Obligations.TableRecords : Prop :=
  ∀ s : State,
    (∀ (n : Fin 64) (byte : Nat → Byte),
      (∀ j, j < 68 → ∀ a : Addr, a.toNat = (s.cfg.instrBase.toNat + 68 * n.val + j) % 65536 → memRead s.tables a = byte j) →
      (∀ i : Fin 32, (s.decodeInstrument n).notes[i] = decodeNote (byte (2 * i.val + 1) ++ byte (2 * i.val))) ∧
      (s.decodeInstrument n).editorMode.val = (byte 64).toNat ∧ (s.decodeInstrument n).speed.val = (byte 65).toNat ∧
      (s.decodeInstrument n).loopStart.val = (byte 66).toNat ∧ (s.decodeInstrument n).loopEnd.val = (byte 67).toNat) ∧
    (∀ (p : Fin 64) (byte : Fin 4 → Byte),
      (∀ (j : Fin 4) (a : Addr), a.toNat = (s.cfg.songBase.toNat + 4 * p.val + j.val) % 65536 → memRead s.tables a = byte j) →
      (∀ k : Fin 4, (s.decodePattern p).channels[k].isSilent = (byte k).getLsbD 6 ∧
        (s.decodePattern p).channels[k].instrumentIndex.val = (byte k).toNat % 64) ∧
      (s.decodePattern p).loopStart = (byte 0).getLsbD 7 ∧ (s.decodePattern p).loopEnd = (byte 1).getLsbD 7 ∧
      (s.decodePattern p).shouldStop = (byte 2).getLsbD 7)

/-! ## Steps -/

/-- A block that is neither faulted nor stuck takes the instruction word at the head of its stream and runs what it decodes
to (20_memory.md R93; 45_voice_mixer.md R279). The stream as a field of State is log 10. -/
def Obligations.StepRunsDecoded : Prop :=
  ∀ (s : State) (w : InstrWord) (rest : List Input), s.stream = .issue w :: rest → s.fault = none → s.stuck = none →
    step s = exec (decode w) { s with stream := rest }

/-- A faulted block, and a stuck one, takes no command: the fault is checked first (60_exceptions.md R311, R316, R317). A
voice selection, the model's own input (log 5), is not taken either. That the run stops there is log 10. -/
def Obligations.HaltedBlock : Prop :=
  ∀ (s : State) (i : Input) (rest : List Input), s.stream = i :: rest →
    ((∃ w, i = .issue w) ∨ ∃ slot, i = .selectVoice slot) →
    (∀ f, s.fault = some f → step s = .fault (.configuration f)) ∧
    (∀ r, s.fault = none → s.stuck = some r → step s = .fault (.stuckPull r))

/-! ## Commands -/

/-- Every command that is a silent noop changes no state at all (60_exceptions.md R313), and so does NOP. -/
def Obligations.NoopCauses : Prop :=
  ∀ s : State,
    (∀ x, exec (.nop x) s = .next s) ∧
    (∀ op x, exec (.reservedOp47 op x) s = .next s) ∧
    (∀ op x, exec (.reservedOp8F op x) s = .next s) ∧
    (∀ n x, exec (.sfxReserved n x) s = .next s) ∧
    (∀ ch x, ch ∉ [(-1 : Int), 0, 1, 2, 3] → exec (.sfxStop ch x) s = .next s) ∧
    (∀ ch x, (∀ k : Fin 4, ch = (k.val : Int) → s.sfx[k] = none) → exec (.sfxRelease ch x) s = .next s) ∧
    (∀ n ch off len, 64 ≤ n → n ≤ 127 → exec (.sfxPlay n ch off len) s = .next s) ∧
    (∀ n ch off len, ch ∉ [(-2 : Int), -1, 0, 1, 2, 3] → exec (.sfxPlay n ch off len) s = .next s) ∧
    (∀ n off len, (∀ k : Fin 4, ∃ v, s.sfx[k] = some v ∧ (v.instrIdx.val : Int) ≠ n) →
      exec (.sfxPlay n (-1) off len) s = .next s) ∧
    (∀ n x, ¬ (0 ≤ n ∧ n ≤ 63) → exec (.music n x) s = .next s)

/-- SFX_STOP (45_voice_mixer.md R272), for every operand: which slots it empties, and nothing else. -/
def Obligations.SfxStop : Prop :=
  ∀ (ch : Int) (x : BitVec 16) (s : State),
    exec (.sfxStop ch x) s =
      .next { s with sfx := Vector.ofFn fun k => if ch = -1 ∨ ch = (k.val : Int) then none else s.sfx[k] }

/-- SFX_RELEASE (45_voice_mixer.md R274), for every operand: whose loop flag it clears, and nothing else. -/
def Obligations.SfxRelease : Prop :=
  ∀ (ch : Int) (x : BitVec 16) (s : State),
    exec (.sfxRelease ch x) s =
      .next { s with sfx := Vector.ofFn fun k =>
        if ch = (k.val : Int) then (s.sfx[k]).map (fun v => { v with loop := false }) else s.sfx[k] }

/-- SFX_PLAY (45_voice_mixer.md R276) with valid operands: the one-shot voices of the instrument are stopped; then −2 starts
nothing, −1 takes the least free slot, if any, and 0..3 that slot; the voice started is that of 43_step_sequencer.md R201 at
cursor 0; nothing else changes. -/
def Obligations.SfxPlay : Prop :=
  ∀ (n : Fin 64) (ch off len : Int) (s : State) (kept : Vector (Option Voice) 4),
    (∀ k : Fin 4, kept[k] = match s.sfx[k] with
      | some v => if v.instrIdx = n then none else some v
      | none => none) →
    (ch = -2 → exec (.sfxPlay (n.val : Int) ch off len) s = .next { s with sfx := kept }) ∧
    (ch = -1 → (∀ k : Fin 4, kept[k] ≠ none) → exec (.sfxPlay (n.val : Int) ch off len) s = .next s) ∧
    (∀ k : Fin 4, (ch = (k.val : Int) ∨ (ch = -1 ∧ kept[k] = none ∧ ∀ j : Fin 4, j < k → kept[j] ≠ none)) →
      ∃ v, IsFreshVoice s n off len 0 v ∧
        exec (.sfxPlay (n.val : Int) ch off len) s = .next { s with sfx := kept.set k (some v) })

/-- One-shot exclusivity (45_voice_mixer.md R277): no instruction makes two one-shot slots hold one instrument. -/
def Obligations.SfxExclusive : Prop :=
  ∀ (i : Instr) (s t : State), s.Exclusive → exec i s = .next t → t.Exclusive

/-- MUSIC with a pattern in range (45_voice_mixer.md R278; 44_pattern_sequencer.md R252): the FSM plays that pattern, set up
as 44_pattern_sequencer.md R241 says from the carried cursor (R242), with the reference voice of R243; nothing else changes.
Its voices are DEFAULT_LENGTH long, by default R241's 32 (92_eei_decisions.md D23). The premise is part of `State.Inv`: a live
reference names a slot that holds a voice. -/
def Obligations.Music : Prop :=
  (∀ (n : Fin 64) (x : BitVec 20) (s : State), (∀ k : Fin 4, s.song.ref = .live k → s.mus[k] ≠ none) →
    ∃ mus ref,
      exec (.music (n.val : Int) x) s =
        .next { s with mus := mus, song := { mode := .playing, pat := n, cur := s.decodePattern n, ref := ref } } ∧
      IsPatternSetUp s n mus ∧ IsReference mus ref) ∧
  Config.defaultLit.defaultLength = 32

/-! ## The pattern sequencer -/

/-- The next pattern by the directives of the current one (44_pattern_sequencer.md R247, R248, R249): shouldStop first, then
loopEnd with the nearest loopStart at or before the current pattern, else the following pattern, none after 63. -/
def Obligations.NextPattern : Prop :=
  ∀ s : State,
    (s.song.cur.shouldStop = true → s.nextPattern = none) ∧
    (s.song.cur.shouldStop = false → s.song.cur.loopEnd = true →
      ∃ p, s.nextPattern = some p ∧ p ≤ s.song.pat ∧ ((s.decodePattern p).loopStart = true ∨ p = 0) ∧
        ∀ q, p < q → q ≤ s.song.pat → (s.decodePattern q).loopStart = false) ∧
    (s.song.cur.shouldStop = false → s.song.cur.loopEnd = false →
      (s.song.pat = 63 → s.nextPattern = none) ∧
      (∀ p : Fin 64, p.val = s.song.pat.val + 1 → s.nextPattern = some p))

/-- A PULL after whose transitions, none or more, the reference voice ends in the buffer with no pattern to follow: the FSM
stops, its slots are cleared, pattern and record stay, and the reference is dead at the index where the voice ended
(44_pattern_sequencer.md R246, R247, R249, R250, R251). -/
def Obligations.PullStopsSong : Prop :=
  ∀ (s : State) (m : Nat) (p : Nat → Fin 64) (c : Nat → Nat) (mus : Nat → Vector (Option Voice) 4) (ref : Nat → RefVoice)
    (j : Fin 4) (v : Voice) (stop : Nat) (x : BitVec 28),
    s.PlaysSong → s.Chain m p c mus ref → (∀ (k : Fin 4) (w : Voice), (mus m)[k] = some w → ¬ w.Z) →
    ref m = .live j → (mus m)[j] = some v → v.EndsAt s.cfg stop → s.nextAt m (p m) = none →
    ∃ t, exec (.pull x) s = .next t ∧ t.stuck = s.stuck ∧ t.out = t.mix.map Sample.mk ∧
      t.song = { mode := .stopped, pat := p m, cur := s.recordAt m (p m), ref := .dead stop } ∧
      (∀ k : Fin 4, t.mus[k] = none) ∧ ∀ k : Fin 4, PlayedTo s.cfg s.sfx[k] t.sfx[k]

/-- A PULL after whose transitions, none or more, the reference voice does not end in the buffer: the last pattern plays on.
Its voices, fresh ones at the cursor where the reference before them died when there was a transition, have been updated to
the buffer end in the same PULL, so a voice that lives has spent exactly the samples from that cursor on; a silent pattern has
no voice and no reference (44_pattern_sequencer.md R241–R244, R246, R248, R249, R250, R253). -/
def Obligations.PullMovesOn : Prop :=
  ∀ (s : State) (m : Nat) (p : Nat → Fin 64) (c : Nat → Nat) (mus : Nat → Vector (Option Voice) 4) (ref : Nat → RefVoice)
    (x : BitVec 28),
    s.PlaysSong → s.Chain m p c mus ref → (∀ (k : Fin 4) (w : Voice), (mus m)[k] = some w → ¬ w.Z) →
    (∀ dead, ref m ≠ .dead dead) →
    (∀ (j : Fin 4) (v : Voice), ref m = .live j → (mus m)[j] = some v → ∀ stop, ¬ v.EndsAt s.cfg stop) →
    ∃ t, exec (.pull x) s = .next t ∧ t.stuck = s.stuck ∧ t.out = t.mix.map Sample.mk ∧
      t.song = { mode := .playing, pat := p m, cur := s.recordAt m (p m), ref := ref m } ∧
      (∀ k : Fin 4, PlayedTo s.cfg (mus m)[k] t.mus[k]) ∧ ∀ k : Fin 4, PlayedTo s.cfg s.sfx[k] t.sfx[k]

/-- A pattern with four silent channels has no reference voice and no music voice, and no instruction but MUSIC leaves it
(44_pattern_sequencer.md R257). -/
def Obligations.SilentPattern : Prop :=
  (∀ (n : Fin 64) (x : BitVec 20) (s : State), (∀ j : Fin 4, (s.decodePattern n).channels[j].isSilent = true) →
    exec (.music (n.val : Int) x) s =
      .next { s with
        mus := Vector.replicate 4 none
        song := { mode := .playing, pat := n, cur := s.decodePattern n, ref := .none } }) ∧
  (∀ (i : Instr) (s t : State), s.song.mode = .playing → s.song.ref = .none → (∀ j : Fin 4, s.mus[j] = none) →
    (∀ n x, i ≠ .music n x) → exec i s = .next t → t.song = s.song ∧ t.mus = s.mus)

/-! ## PULL -/

/-- A PULL, from every state: the mix buffer is zeroed, the one-shot voices are updated in order and the song is ticked, each
update rendering onto what those before it left; what they leave is the mix, the slots, the song and the draws of the next
state, and the whole buffer of B samples published is the soft clip of that mix (45_voice_mixer.md R290–R293;
44_pattern_sequencer.md R246–R251). Or the PULL does not complete, the block is stuck and nothing else changes (log 6). What no
PULL changes is said too. -/
def Obligations.PullResult : Prop :=
  ∀ (x : BitVec 28) (s : State), ∃ t, exec (.pull x) s = .next t ∧
    ((t.stuck = s.stuck ∧ t.mix.length = s.cfg.B ∧ t.out = t.mix.map Sample.mk ∧ PullRun s t) ∨
      ∃ r, t = { s with stuck := some r }) ∧
    t.cfg = s.cfg ∧ t.tables = s.tables ∧ t.fault = s.fault ∧ t.stream = s.stream ∧ t.bench = s.bench ∧
    s.draws ≤ t.draws

/-- A PULL completes when no voice meets Z and every instrument in the table takes time (43_step_sequencer.md R223;
44_pattern_sequencer.md R255; 45_voice_mixer.md R293). -/
def Obligations.PullCompletes : Prop :=
  ∀ (x : BitVec 28) (s : State), s.Running → (∀ slot v, s.voice slot = some v → ¬ v.Z) →
    (∀ n : Fin 64, 1 ≤ (s.decodeInstrument n).speed.val) →
    ∃ t, exec (.pull x) s = .next t ∧ t.stuck = s.stuck ∧ t.out = t.mix.map Sample.mk ∧ t.out.length = s.cfg.B

/-- When a PULL gets stuck, and what is recorded (60_exceptions.md R316, R317; 44_pattern_sequencer.md R255): the first one-shot
slot whose voice satisfies Z; else, after any transitions, the first music slot whose voice does; or the pattern whose set-up
would repeat a (pattern, cursor) pair of this PULL. The buffers, the voices and everything else stay (log 6); that the pattern
named is the one that repeats is log 7. -/
def Obligations.PullStuck : Prop :=
  (∀ (x : BitVec 28) (s : State) (k : Fin 4) (v : Voice), s.Running → s.sfx[k] = some v → v.Z →
    (∀ (j : Fin 4) (w : Voice), j < k → s.sfx[j] = some w → ¬ w.Z) →
    exec (.pull x) s = .next { s with stuck := some (.zeroDurationLoop (.sfx k)) }) ∧
  (∀ (x : BitVec 28) (s : State) (m : Nat) (p : Nat → Fin 64) (c : Nat → Nat) (mus : Nat → Vector (Option Voice) 4)
    (ref : Nat → RefVoice) (k : Fin 4) (v : Voice), s.PlaysSong → s.Chain m p c mus ref → (mus m)[k] = some v → v.Z →
    (∀ (j : Fin 4) (w : Voice), j < k → (mus m)[j] = some w → ¬ w.Z) →
    exec (.pull x) s = .next { s with stuck := some (.zeroDurationLoop (.mus k)) }) ∧
  (∀ (x : BitVec 28) (s : State) (m : Nat) (p : Nat → Fin 64) (c : Nat → Nat) (mus : Nat → Vector (Option Voice) 4)
    (ref : Nat → RefVoice) (j : Fin 4) (v : Voice) (i : Nat), s.PlaysSong → s.Chain m p c mus ref →
    (∀ (k : Fin 4) (w : Voice), (mus m)[k] = some w → ¬ w.Z) → ref m = .live j → (mus m)[j] = some v → 1 ≤ i → i ≤ m →
    v.EndsAt s.cfg (c i) → s.nextAt m (p m) = some (p i) →
    exec (.pull x) s = .next { s with stuck := some (.patternChainLoop (p i)) })

/-- Silence (45_voice_mixer.md R295; 60_exceptions.md R315): with no voice in any slot and nothing to play, or with only
silent notes sounding, one-shot or music, every published sample is +0.0. For the music this is said of a PULL whose patterns,
however many transitions it takes, have silent voices only, whether the last one plays on or the song stops. -/
def Obligations.SilentPull : Prop :=
  (∀ (x : BitVec 28) (s : State), (∀ slot, s.voice slot = none) → (s.song.mode = .stopped ∨ s.song.ref = .none) →
    exec (.pull x) s =
      .next { s with mix := List.replicate s.cfg.B (.rat 0), out := List.replicate s.cfg.B { softClipOf := .rat 0 } }) ∧
  (∀ (x : BitVec 28) (s : State), s.Running → s.song.mode = .stopped →
    (∀ (k : Fin 4) (v : Voice), s.sfx[k] = some v → v.Silent ∧ ¬ v.Z) →
    ∃ t, exec (.pull x) s = .next t ∧ t.stuck = s.stuck ∧ t.out.length = s.cfg.B ∧ ∀ y ∈ t.out, ∀ d, y.f32 d = 0#32) ∧
  (∀ (x : BitVec 28) (s : State) (m : Nat) (p : Nat → Fin 64) (c : Nat → Nat) (mus : Nat → Vector (Option Voice) 4)
    (ref : Nat → RefVoice), s.PlaysSong → s.Chain m p c mus ref → (∀ (k : Fin 4) (v : Voice), s.sfx[k] = some v → v.Silent) →
    (∀ i, i ≤ m → ∀ (k : Fin 4) (v : Voice), (mus i)[k] = some v → v.Silent) →
    (∀ (k : Fin 4) (v : Voice), (mus m)[k] = some v → ¬ v.Z) →
    (∀ dead, ref m ≠ .dead dead) →
    ((∀ (j : Fin 4) (v : Voice), ref m = .live j → (mus m)[j] = some v → ∀ stop, ¬ v.EndsAt s.cfg stop) ∨
      s.nextAt m (p m) = none) →
    ∃ t, exec (.pull x) s = .next t ∧ t.stuck = s.stuck ∧ t.out.length = s.cfg.B ∧ ∀ y ∈ t.out, ∀ d, y.f32 d = 0#32)

/-- What a completed PULL leaves of the voices: each stands at cursor 0 with its task queued (43_step_sequencer.md R220,
R222), and a one-shot voice keeps its instrument, its last step and its flags (10_state.md R39, R40, R42, R44, R45). -/
def Obligations.PullKeepsVoices : Prop :=
  ∀ (x : BitVec 28) (s t : State), s.Running → exec (.pull x) s = .next t → s.stuck = none → t.stuck = none →
    (∀ slot v, t.voice slot = some v → v.cursor = 0 ∧ v.task ≠ none) ∧
    (∀ (k : Fin 4) (v' : Voice), t.sfx[k] = some v' → ∃ v, s.sfx[k] = some v ∧ v'.instrIdx = v.instrIdx ∧
      v'.instr = v.instr ∧ v'.lastStep = v.lastStep ∧ v'.alive = v.alive ∧ v'.active = v.active ∧ v'.loop = v.loop)

/-! ## update() and process -/

/-- update() fails to end exactly when Z(v) holds (43_step_sequencer.md R223), and one that ends has ended within the number
of passes the model gives it (log 7). -/
def Obligations.UpdateEndsExactly : Prop :=
  ∀ (cfg : Cfg) (v : Voice) (mix : List Exact) (draws : Nat), CfgValid cfg → v.Ok cfg → mix.length = cfg.B →
    ((∀ fuel, updateLoop cfg fuel v mix draws = .endless) ↔ v.Z) ∧
    (¬ v.Z → updateLoop cfg (updateFuel cfg) v mix draws ≠ .endless ∧
      ∀ fuel, updateFuel cfg ≤ fuel → updateLoop cfg fuel v mix draws = updateLoop cfg (updateFuel cfg) v mix draws)

/-- The number of passes the model gives the song tick never decides its outcome: with more passes it is the same
(44_pattern_sequencer.md R250, R255; log 7). -/
def Obligations.SongFuelSuffices : Prop :=
  ∀ (s : State) (fuel : Nat), s.Running → songFuel s.cfg ≤ fuel → songTick fuel [] s = songTick (songFuel s.cfg) [] s

/-- One update of a voice that takes no loop jump (43_step_sequencer.md R219–R222): it dies, at the cursor where its samples
run out, exactly when they run out before the buffer end; else it lives on at cursor 0 with that many fewer samples left. -/
def Obligations.UpdateSpendsSamples : Prop :=
  ∀ (cfg : Cfg) (v : Voice) (mix : List Exact) (draws : Nat), CfgValid cfg → v.Ok cfg → mix.length = cfg.B → v.NoJumps →
    (v.cursor + v.samplesLeft cfg < cfg.B →
      ∃ v' mix' draws', updateVoice cfg v mix draws = .died v' mix' draws' ∧ v'.alive = false ∧
        v'.cursor = v.cursor + v.samplesLeft cfg) ∧
    (cfg.B ≤ v.cursor + v.samplesLeft cfg →
      ∃ v' mix' draws', updateVoice cfg v mix draws = .alive v' mix' draws' ∧ v'.alive = true ∧ v'.cursor = 0 ∧
        v'.samplesLeft cfg = v.samplesLeft cfg - (cfg.B - v.cursor))

/-- Lifetime (43_step_sequencer.md R224): a voice at cursor 0 with k playable steps that takes no loop jump, of speed at
least 1, outlives j updates exactly for j ≤ floor(k·N/B). -/
def Obligations.Lifetime : Prop :=
  ∀ (cfg : Cfg) (v : Voice) (j draws : Nat), CfgValid cfg → v.Ok cfg → v.NoJumps → v.task = none → v.cursor = 0 →
    1 ≤ v.instr.speed.val →
    ((v.afterUpdates cfg j draws).isSome = true ↔
      j ≤ (v.lastStep.val + 1 - v.step.val) * taskSamples cfg v.instr.speed / cfg.B)

/-- A note that straddles two buffers loses no time and repeats none (42_envelope_renderer.md R182): processing two
stretches one after the other is processing them as one. -/
def Obligations.ProcessStraddles : Prop :=
  ∀ (cfg : Cfg) (we : Bool) (first second : List Exact) (task : RenderTask) (o : OscState) (draws : Nat) (r1 r2 : ProcessOut),
    renderFrom cfg we first task o draws = r1 → renderFrom cfg we second r1.task r1.osc r1.draws = r2 →
    renderFrom cfg we (first ++ second) task o draws =
      { mix := r1.mix ++ r2.mix, used := r1.used + r2.used, task := r2.task, osc := r2.osc, draws := r2.draws }

/-- The write-disabled path (42_envelope_renderer.md R185): only time passes; the mix buffer, the oscillator and the draws
stay; the completion test still applies. -/
def Obligations.WriteDisabled : Prop :=
  ∀ (cfg : Cfg) (mix : List Exact) (task : RenderTask) (o : OscState) (draws : Nat),
    renderFrom cfg false mix task o draws =
      { mix := mix
        used := min mix.length (taskSamples cfg task.speed - task.n)
        task := { task with n := task.n + min mix.length (taskSamples cfg task.speed - task.n) }
        osc := o
        draws := draws }

/-- The completion test (42_envelope_renderer.md R175), with the literal SPEED_DIV, whose default is 120: a task is complete
when n·SPEED_DIV ≥ speed·SR, which is when its elapsed time has reached its duration, and after exactly
N(speed) = ceil(speed·SR/SPEED_DIV) samples; N(0) = 0, and N(10) = 4000 at 48000 Hz with SPEED_DIV 120. -/
def Obligations.TaskCompletion : Prop :=
  (∀ (cfg : Cfg) (task : RenderTask), 1 ≤ cfg.rate →
    (task.complete cfg = true ↔ task.speed.val * cfg.rate ≤ task.n * cfg.lit.speedDiv) ∧
    (task.complete cfg = true ↔ Signal.noteSeconds cfg.lit task.speed ≤ (task.n : ℝ) / (cfg.rate : ℝ)) ∧
    (task.complete cfg = true ↔ taskSamples cfg task.speed ≤ task.n)) ∧
  (∀ (cfg : Cfg) (speed : Fin 256),
    (taskSamples cfg speed : ℤ) = ⌈((speed.val : ℝ) * (cfg.rate : ℝ)) / ((cfg.lit.speedDiv : ℕ) : ℝ)⌉) ∧
  (∀ cfg, taskSamples cfg 0 = 0) ∧
  (∀ cfg : Cfg, cfg.lit.speedDiv = Config.defaultLit.speedDiv → cfg.rate = 48000 → taskSamples cfg 10 = 4000) ∧
  (Config.defaultLit.speedDiv : ℕ) = 120

/-! ## Envelope and frequency -/

/-- The volume law (42_envelope_renderer.md R176): the model's exact volume is the rule's, its third branch divides by a
fade-out above 0, and the volume lies between 0 and the target; whatever SPEED_DIV is. -/
def Obligations.VolumeLaw : Prop :=
  (∀ (lit : Literals) (task : RenderTask) (t : Rat),
    ((task.volumeAt lit t : Rat) : ℝ) = Signal.taskVolume lit task (t : ℝ)) ∧
  (∀ (lit : Literals) (speed : Fin 256) (task : RenderTask) (t : Rat),
    task.Ok speed → 0 ≤ t → t < duration lit task.speed →
    0 ≤ task.volumeAt lit t ∧ task.volumeAt lit t ≤ task.vol ∧
    (¬ t < task.fadeIn → ¬ t < duration lit task.speed - task.fadeOut → 0 < task.fadeOut)) ∧
  Signal.volume 1 (1 / 240) 0 (1 / 12) (1 / 480) = 1 / 2

/-- The frequency laws (42_envelope_renderer.md R177, R178, R179): glide is linear in Hz from the start pitch to the target,
held when they are one; vibrato stays between the pitch and VIB_DEPTH above it, starts at the middle, and is at the top after a
quarter of a period of VIB_HZ. The defaults are half a semitone and 8 Hz, so that the top is reached after 1/32 s. -/
def Obligations.FrequencyLaw : Prop :=
  (∀ (lit : Literals) (task : RenderTask) (t : Rat) (d : Valuation),
    (task.freqAt lit t).val d = Signal.taskFreq lit task (t : ℝ) ∧
    (task.vibrato = false → task.pitchFrom = task.pitch → (task.freqAt lit t).val d = Signal.pitchHz (task.pitch.val : ℝ)) ∧
    (task.vibrato = false → 1 ≤ task.speed.val → t = duration lit task.speed / 2 →
      (task.freqAt lit t).val d = (Signal.pitchHz (task.pitchFrom.val : ℝ) + Signal.pitchHz (task.pitch.val : ℝ)) / 2) ∧
    (task.vibrato = true →
      Signal.pitchHz (task.pitch.val : ℝ) ≤ (task.freqAt lit t).val d ∧
      (task.freqAt lit t).val d ≤ Signal.pitchHz ((task.pitch.val : ℝ) + (lit.vibDepth.toRat : ℝ)) ∧
      (t = 0 → (task.freqAt lit t).val d =
        (Signal.pitchHz (task.pitch.val : ℝ) + Signal.pitchHz ((task.pitch.val : ℝ) + (lit.vibDepth.toRat : ℝ))) / 2) ∧
      (lit.vibHz * t = 1 / 4 →
        (task.freqAt lit t).val d = Signal.pitchHz ((task.pitch.val : ℝ) + (lit.vibDepth.toRat : ℝ))))) ∧
  Config.defaultLit.vibDepth.toRat = 1 / 2 ∧ Config.defaultLit.vibHz = 8 ∧ Config.defaultLit.vibHz * (1 / 32) = 1 / 4

/-- The note_to_frequency_ROM (42_envelope_renderer.md R171, R173): its entries, the lookups, the anchor, the ratio of
neighbours, the octave, and the noise reference, the pitch NOISE_REF_PITCH, by default 63 (41_waveform_oscillator.md R151). -/
def Obligations.RomContents : Prop :=
  ∀ d : Valuation,
    (∀ k : Fin 128, (romEntry k).val d = 440 * (2 : ℝ) ^ (((k.val : ℝ) / 2 - 33) / 12)) ∧
    (∀ p : Fin 64, (pf p).val d = Signal.pitchHz (p.val : ℝ)) ∧ (∀ q : Rat, (pfAt q).val d = Signal.pitchHz (q : ℝ)) ∧
    (∀ (p : Fin 64) (k : Fin 128), k.val = 2 * p.val + 1 → pfAt ((p.val : Rat) + 1 / 2) = romEntry k) ∧
    (pf 33).val d = 440 ∧ |(pf 63).val d - 2489.015870| < 0.000001 ∧ |(pf 0).val d - 65.406391| < 0.000001 ∧
    (∀ k l : Fin 128, l.val = k.val + 1 → (romEntry l).val d / (romEntry k).val d = (2 : ℝ) ^ ((1 : ℝ) / 24)) ∧
    (∀ p q : Fin 64, q.val = p.val + 12 → (pf q).val d = 2 * (pf p).val d) ∧
    (∀ lit : Literals, (noiseRef lit).val d = Signal.pitchHz (lit.noiseRefPitch.val : ℝ)) ∧
    Config.defaultLit.noiseRefPitch = 63

/-! ## The waveforms -/

/-- WAVE 0, triangle (41_waveform_oscillator.md R144): the oscillator steps with the configuration's WAVE[0], whose default is
the rule's formula; the corner values and the range. -/
def Obligations.WaveTri : Prop :=
  OscillatesAs oscTri (fun w => w.tri) ∧ (∀ lit d x, Config.defaultWaves.tri.real lit d x = Signal.triangle x) ∧
  Signal.triangle 0 = 0.7 ∧ Signal.triangle 0.5 = -0.7 ∧ Signal.triangle 0.25 = 0 ∧ Signal.triangle 0.75 = 0 ∧
  Signal.triangle 0.125 = 0.35 ∧ ∀ x, -0.7 ≤ Signal.triangle x ∧ Signal.triangle x ≤ 0.7

/-- WAVE 1, tilted sawtooth (41_waveform_oscillator.md R145): the oscillator steps with the configuration's WAVE[1], whose
default is the rule's formula; the rise and the fall, the corner values and the range. -/
def Obligations.WaveTilt : Prop :=
  OscillatesAs oscTilt (fun w => w.tilt) ∧ (∀ lit d x, Config.defaultWaves.tilt.real lit d x = Signal.tilted x) ∧
  Signal.tilted 0 = -0.7 ∧ Signal.tilted 0.875 = 0.7 ∧ Signal.tilted 0.5 = 0.1 ∧
  (∀ x, 0 ≤ x → x < 0.875 → Signal.tilted x = (x * 16 / 7 - 1) * 0.7) ∧
  (∀ x, 0.875 ≤ x → x < 1 → Signal.tilted x = ((1 - x) * 16 - 1) * 0.7) ∧
  ∀ x, -0.7 ≤ Signal.tilted x ∧ Signal.tilted x ≤ 0.7

/-- WAVE 2, sawtooth (41_waveform_oscillator.md R146): the oscillator steps with the configuration's WAVE[2], whose default is
the rule's formula; the corner values and the range. -/
def Obligations.WaveSaw : Prop :=
  OscillatesAs oscSaw (fun w => w.saw) ∧ (∀ lit d x, Config.defaultWaves.saw.real lit d x = Signal.sawtooth x) ∧
  Signal.sawtooth 0 = -0.45 ∧ Signal.sawtooth 0.5 = 0 ∧ Signal.sawtooth 0.75 = 0.225 ∧
  ∀ x, -0.45 ≤ Signal.sawtooth x ∧ Signal.sawtooth x < 0.45

/-- WAVE 3, square (41_waveform_oscillator.md R147): the oscillator steps with the configuration's WAVE[3], whose default is
the rule's sine form; and the rule's equivalent form. -/
def Obligations.WaveSquare : Prop :=
  OscillatesAs oscSquare (fun w => w.square) ∧ (∀ lit d x, Config.defaultWaves.square.real lit d x = Signal.square x) ∧
  (∀ x, Signal.square x = if Signal.frac x ≤ 0.5 then 1 / 3 else -(1 / 3)) ∧
  Signal.square 0 = 1 / 3 ∧ Signal.square 0.5 = 1 / 3 ∧ Signal.square 0.75 = -(1 / 3)

/-- WAVE 4, pulse, with the literal PULSE_DUTY, by default 0.3125 (41_waveform_oscillator.md R148): the oscillator steps with the
configuration's WAVE[4], whose default is the rule's formula; the duty, and the corner values of the default literal. -/
def Obligations.WavePulse : Prop :=
  OscillatesAs oscPulse (fun w => w.pulse) ∧ (∀ lit d x, Config.defaultWaves.pulse.real lit d x = Signal.pulse lit x) ∧
  (Config.defaultLit.pulseDuty : ℝ) = 0.3125 ∧
  Signal.pulse Config.defaultLit 0.3125 = -(1 / 3) ∧ Signal.pulse Config.defaultLit 0.25 = 1 / 3 ∧
  ∀ (lit : Literals) (x : ℝ), (Signal.pulse lit x = 1 / 3 ∧ Signal.frac x < (lit.pulseDuty : ℝ)) ∨
    (Signal.pulse lit x = -(1 / 3) ∧ (lit.pulseDuty : ℝ) ≤ Signal.frac x)

/-- WAVE 5, organ (41_waveform_oscillator.md R149): the oscillator steps with the configuration's WAVE[5], whose default is the
rule's formula; the extremes, the worked example and the range. -/
def Obligations.WaveOrgan : Prop :=
  OscillatesAs oscOrgan (fun w => w.organ) ∧ (∀ lit d x, Config.defaultWaves.organ.real lit d x = Signal.organ x) ∧
  Signal.organ 0 = 0.455 ∧ Signal.organ 0.25 = -0.42 ∧ Signal.organ 0.75 = -0.42 ∧ Signal.organ 0.5 = 0.105 ∧
  ∀ x, -0.42 ≤ Signal.organ x ∧ Signal.organ x ≤ 0.455

/-- WAVE 7, phaser (41_waveform_oscillator.md R154): the oscillator steps with the configuration's WAVE[7], whose default is
the rule's formula; the corner values and the range. -/
def Obligations.WavePhaser : Prop :=
  OscillatesAs oscPhaser (fun w => w.phaser) ∧ (∀ lit d x, Config.defaultWaves.phaser.real lit d x = Signal.phaser x) ∧
  Signal.phaser 0 = 0.5 ∧ Signal.phaser 64 = 0 ∧ Signal.phaser 0.5 = -0.99609375 ∧
  ∀ x, -1 < Signal.phaser x ∧ Signal.phaser x ≤ 0.5

/-- The seven waveform selectors that are functions of the phase, issued alone (the model's own form, log 5): each renders one
sample of the bench voice's task with the configuration's function for that waveform. -/
def Obligations.WavesRender : Prop :=
  ∀ custom : Bool,
    RendersShape (.waveTri custom) (fun w => w.tri) ∧ RendersShape (.waveTilt custom) (fun w => w.tilt) ∧
    RendersShape (.waveSaw custom) (fun w => w.saw) ∧ RendersShape (.waveSquare custom) (fun w => w.square) ∧
    RendersShape (.wavePulse custom) (fun w => w.pulse) ∧ RendersShape (.waveOrgan custom) (fun w => w.organ) ∧
    RendersShape (.wavePhaser custom) (fun w => w.phaser)

/-- WAVE_NOISE (41_waveform_oscillator.md R141, R150, R151, R152, R153): the phase advances all the same; one draw in [−1, 1]
is taken, a free one or, where it is the named realization, the reference LFSR's (92_eei_decisions.md D14); the stored sample
is blended and the output added to the mix. One sample alone is the model's own form, log 5. -/
def Obligations.WaveNoise : Prop :=
  ∀ (custom : Bool) (s : State) (b : Bench) (task : RenderTask) (m : Exact), s.CanRender b task m → b.voice.active = true →
    ∃ (mixed phase ns r : Exact) (rng : Option (BitVec 32)) (draws : Nat),
      exec (.waveNoise custom) s = .next (s.afterRender b task mixed { phase := phase, ns := ns, rng := rng } draws) ∧
      ((b.voice.osc.rng = none ∧ r = .draw s.draws ∧ rng = none ∧ draws = s.draws + 1) ∨
        (∃ g, b.voice.osc.rng = some g ∧ r = .rat (lfsrValue (lfsrRun 16 g)) ∧ rng = some (lfsrRun 16 g) ∧ draws = s.draws)) ∧
      ∀ d,
        -1 ≤ r.val d ∧ r.val d ≤ 1 ∧
        phase.val d = Signal.nextPhase (b.voice.osc.phase.val d) (Signal.taskFreq s.cfg.lit task (s.time task)) (s.cfg.rate : ℝ) ∧
        ns.val d = Signal.noiseNext (b.voice.osc.ns.val d) (Signal.noiseScale s.cfg.lit (Signal.taskFreq s.cfg.lit task (s.time task))) (r.val d) ∧
        mixed.val d = m.val d + Signal.taskVolume s.cfg.lit task (s.time task) *
          Signal.noiseOutput (b.voice.osc.ns.val d) (ns.val d) (Signal.noiseScale s.cfg.lit (Signal.taskFreq s.cfg.lit task (s.time task))) ∧
        |Signal.noiseOutput (b.voice.osc.ns.val d) (ns.val d) (Signal.noiseScale s.cfg.lit (Signal.taskFreq s.cfg.lit task (s.time task)))| ≤ 0.7

/-- Holding the phase modulo 128 gives the same sample as an unbounded accumulator, for every default waveform that is a
function of the phase, and for every function that repeats after 128 (41_waveform_oscillator.md R142). -/
def Obligations.PhaseModulus : Prop :=
  ∀ (lit : Literals) (x : Exact) (d : Valuation),
    (∀ fn ∈ [shapeTri, shapeTilt, shapeSaw, shapeSquare, shapePulse, shapeOrgan, shapePhaser],
      (fn.apply lit (x.mod 128)).val d = (fn.apply lit x).val d) ∧
    (∀ fn : WaveFn, (∀ y : ℝ, fn.real lit d (y + 128) = fn.real lit d y) →
      (fn.apply lit (x.mod 128)).val d = (fn.apply lit x).val d)

/-! ## The effect policy -/

/-- The custom bit changes nothing (30_encoding.md R114): the waveform is the `waveform` field modulo 8, and scheduling a note
gives the same voice whatever the bit. -/
def Obligations.CustomBit : Prop :=
  (∀ w : NoteWord, (waveformBits (decodeNote w).fields.wave).toNat = waveformId (decodeNote w).fields % 8) ∧
  (∀ (lit : Literals) (v : Voice) (k : Fin 32) (e : Effect) (note : NoteFields) (b : Bool),
    v.scheduleNote lit k { effect := e, fields := { note with custom := b } } =
      v.scheduleNote lit k { effect := e, fields := note })

/-- Effects 0, 6 and 7 (43_step_sequencer.md R205, R211, R212): a constant pitch, fade-in FADE_DEFAULT_IN of the duration, by
default 5%, no fade-out. -/
def Obligations.FxHeld : Prop :=
  (∀ e : Effect, e ∈ [Effect.none, Effect.arpFast, Effect.arpSlow] →
    SchedulesWith e
      (fun lit note v => { pitch := note.pitch, pitchFrom := note.pitch,
                           fadeIn := lit.fadeDefaultIn.toRat * ((v.instr.speed.val : Rat) / ((lit.speedDiv : ℕ) : Rat)),
                           fadeOut := 0, vibrato := false })
      (fun _ _ => none)) ∧
  Config.defaultLit.fadeDefaultIn.toRat = 5 / 100

/-- Effect 1, slide (43_step_sequencer.md R206): from the previously scheduled pitch, SLIDE_FIRST_PITCH, by default 32, on the
first step; no fade. -/
def Obligations.FxSlide : Prop :=
  SchedulesWith .slide
    (fun lit note v => { pitch := note.pitch, pitchFrom := (match v.prevPitch with | some p => p | none => lit.slideFirstPitch),
                         fadeIn := 0, fadeOut := 0, vibrato := false })
    (fun _ _ => none) ∧
  Config.defaultLit.slideFirstPitch = 32

/-- Effect 2, vibrato (43_step_sequencer.md R207). -/
def Obligations.FxVibrato : Prop :=
  SchedulesWith .vibrato
    (fun _ note _ => { pitch := note.pitch, pitchFrom := note.pitch, fadeIn := 0, fadeOut := 0, vibrato := true })
    (fun _ _ => none)

/-- Effect 3, drop (43_step_sequencer.md R208): from the note's pitch to DROP_TARGET_PITCH, by default 0; the pitch recorded is
the note's. -/
def Obligations.FxDrop : Prop :=
  SchedulesWith .drop
    (fun lit note _ => { pitch := lit.dropTargetPitch, pitchFrom := note.pitch, fadeIn := 0, fadeOut := 0, vibrato := false })
    (fun _ _ => none) ∧
  Config.defaultLit.dropTargetPitch = 0

/-- Effect 4, fade-in (43_step_sequencer.md R209): FADE4_IN of the duration in, FADE4_OUT out, by default 95% and 5%. -/
def Obligations.FxFadeIn : Prop :=
  SchedulesWith .fadeIn
    (fun lit note v => { pitch := note.pitch, pitchFrom := note.pitch,
                         fadeIn := lit.fade4In.toRat * ((v.instr.speed.val : Rat) / ((lit.speedDiv : ℕ) : Rat)),
                         fadeOut := lit.fade4Out.toRat * ((v.instr.speed.val : Rat) / ((lit.speedDiv : ℕ) : Rat)),
                         vibrato := false })
    (fun _ _ => none) ∧
  Config.defaultLit.fade4In.toRat = 95 / 100 ∧ Config.defaultLit.fade4Out.toRat = 5 / 100

/-- Effect 5, fade-out (43_step_sequencer.md R210, R214): FADE5_OUT of the duration out, and a pending fade-in of
FADE5_NEXT_IN/D seconds for the next scheduled step, by default 95% and 1/D, none when D = 0; a fade-in pending before is used
up by this step. -/
def Obligations.FxFadeOut : Prop :=
  SchedulesWith .fadeOut
    (fun lit note v => { pitch := note.pitch, pitchFrom := note.pitch, fadeIn := 0,
                         fadeOut := lit.fade5Out.toRat * ((v.instr.speed.val : Rat) / ((lit.speedDiv : ℕ) : Rat)),
                         vibrato := false })
    (fun lit v => if v.instr.speed.val = 0 then none
      else some (lit.fade5NextIn.toRat / ((v.instr.speed.val : Rat) / ((lit.speedDiv : ℕ) : Rat)))) ∧
  Config.defaultLit.fade5Out.toRat = 95 / 100 ∧ Config.defaultLit.fade5NextIn.toRat = 1

/-- The note selectors, issued alone (the model's own form, log 5), are the acts of a PULL, run on the bench: `selectVoice`
copies a slot's voice there, with a mix buffer of zeros; each effect does to it what the step sequencer does with such a note
(43_step_sequencer.md R203), and each waveform what the renderer does with one sample of a task of that waveform
(42_envelope_renderer.md R181); where the bench cannot take the act, nothing changes. -/
def Obligations.SelectorsAreThePulls : Prop :=
  (∀ (s : State) (slot : SlotId) (rest : List Input), s.stream = .selectVoice slot :: rest → s.fault = none → s.stuck = none →
    ∃ bench, step s = .next { s with stream := rest, bench := bench } ∧ (s.voice slot = none → bench = none) ∧
      ∀ v, s.voice slot = some v → bench = some { voice := v, mix := List.replicate s.cfg.B (.rat 0) }) ∧
  (∀ (s : State) (b : Bench) (k : Fin 32) (note : NoteFields) (scheduled : Effect → State), s.CanSchedule b k →
    (∀ e, scheduled e = { s with bench := some { b with voice := b.voice.scheduleNote s.cfg.lit k { effect := e, fields := note } } }) →
    exec (.fxNone note) s = .next (scheduled .none) ∧ exec (.fxSlide note) s = .next (scheduled .slide) ∧
    exec (.fxVibrato note) s = .next (scheduled .vibrato) ∧ exec (.fxDrop note) s = .next (scheduled .drop) ∧
    exec (.fxFadeIn note) s = .next (scheduled .fadeIn) ∧ exec (.fxFadeOut note) s = .next (scheduled .fadeOut) ∧
    exec (.fxArpFast note) s = .next (scheduled .arpFast) ∧ exec (.fxArpSlow note) s = .next (scheduled .arpSlow)) ∧
  (∀ (s : State) (b : Bench) (task : RenderTask) (m : Exact) (custom : Bool), s.CanRender b task m →
    ∃ mixed o draws,
      renderFrom s.cfg b.voice.active [m] task b.voice.osc s.draws =
        { mix := [mixed], used := 1, task := { task with n := task.n + 1 }, osc := o, draws := draws } ∧
      exec (waveInstr task.wave custom) s = .next (s.afterRender b task mixed o draws)) ∧
  (∀ (s : State) (p : PackedNote), (∀ b k, ¬ s.CanSchedule b k) → exec (effectInstr p) s = .next s) ∧
  (∀ (s : State) (w : Waveform) (custom : Bool), (∀ b task m, ¬ s.CanRender b task m) → exec (waveInstr w custom) s = .next s)

/-- The loop property (43_step_sequencer.md R217): the steps run up to loopEnd − 1 and then cycle through the loop for ever;
after a release they run on to the last step, once. -/
def Obligations.LoopSteps : Prop :=
  (∀ (lit : Literals) (v : Voice) (i : Nat), v.loop = true → v.instr.loopStart.val < v.instr.loopEnd.val →
    v.instr.loopEnd.val ≤ v.lastStep.val + 1 → v.step.val + 1 ≤ v.instr.loopEnd.val →
    (v.playSteps lit i).step.val =
      if v.step.val + i < v.instr.loopEnd.val then v.step.val + i
      else v.instr.loopStart.val +
        (v.step.val + i - v.instr.loopEnd.val) % (v.instr.loopEnd.val - v.instr.loopStart.val)) ∧
  (∀ (lit : Literals) (v : Voice) (i : Nat), v.loop = false → v.step.val ≤ v.lastStep.val →
    (v.playSteps lit i).step.val = min (v.step.val + i) (v.lastStep.val + 1))

/-! ## Reset, invariants, whole-machine rules -/

/-- Reset (70_reset_and_hazards.md R340) latches the configuration and checks it, the buffer length first; a bad one is
recorded as the fault; a good one sets every state field to its reset value. The instrument indices of the four silent
channels are left open, for no rule gives them; so are the model's own fields, the count of draws and the bench. The tables
are not touched (R342). -/
def Obligations.Reset : Prop :=
  ∀ (s : State) (c : Cfg) (rest : List Input), s.stream = .reset c :: rest →
    (c.bufLen < 1 → ∃ t, step s = .next t ∧ t.cfg = c ∧ t.fault = some (.bufferSize c.bufLen) ∧ t.tables = s.tables) ∧
    (1 ≤ c.bufLen → c.sr < 1 → ∃ t, step s = .next t ∧ t.cfg = c ∧ t.fault = some (.sampleRate c.sr) ∧ t.tables = s.tables) ∧
    (1 ≤ c.bufLen → 1 ≤ c.sr → ∃ (cur : PatternRec) (draws : Nat) (bench : Option Bench),
      (∀ k : Fin 4, cur.channels[k].isSilent = true) ∧ cur.loopStart = false ∧ cur.loopEnd = false ∧ cur.shouldStop = false ∧
      step s = .next {
        cfg := c
        mix := List.replicate c.bufLen.toNat (.rat 0)
        out := List.replicate c.bufLen.toNat { softClipOf := .rat 0 }
        sfx := Vector.replicate 4 none
        mus := Vector.replicate 4 none
        song := { mode := .stopped, pat := 0, cur := cur, ref := .none }
        fault := none
        stuck := none
        tables := s.tables
        stream := rest
        draws := draws
        bench := bench })

/-- The invariants hold at State.reset, whose configuration is the model's choice (log 2): no slot holds a voice and no fault
is recorded (10_state.md R33, R60). -/
def Obligations.ResetInv : Prop :=
  State.reset.Inv ∧ State.reset.SignalInv ∧ State.reset.fault = none ∧ State.reset.stuck = none ∧
    (∀ slot, State.reset.voice slot = none) ∧ State.reset.song.mode = .stopped

/-- The invariant of the machine is kept by every step (10_state.md R31, R36, R37, R46, R48, R50, R51, R62). -/
def Obligations.InvStep : Prop :=
  ∀ s t : State, s.Inv → step s = .next t → t.Inv

/-- Every voice's phase stays in [0, 128) and its stored noise sample in [−1, 1], whatever the noise draws
(41_waveform_oscillator.md R141, R152). -/
def Obligations.SignalInvStep : Prop :=
  ∀ s t : State, s.Inv → s.SignalInv → step s = .next t → t.SignalInv

/-- The soft clip (45_voice_mixer.md R294): the published number is at most 1 in magnitude, keeps the sign and the order of
the mix sums, and is +0.0 for 0; the rule's worked example. -/
def Obligations.SoftClip : Prop :=
  ∀ d : Valuation,
    (∀ x : Sample, (x.f32 d).toNat % 2 ^ 31 ≤ 0x3F800000) ∧
    (∀ x : Sample, (x.f32 d).getLsbD 31 = true ↔ x.softClipOf.val d < 0) ∧
    (∀ x y : Sample, 0 ≤ x.softClipOf.val d → x.softClipOf.val d ≤ y.softClipOf.val d →
      (x.f32 d).toNat ≤ (y.f32 d).toNat) ∧
    (∀ x y : Sample, x.softClipOf.val d ≤ y.softClipOf.val d → y.softClipOf.val d < 0 →
      (y.f32 d).toNat ≤ (x.f32 d).toNat) ∧
    Sample.f32 d { softClipOf := .rat 0 } = 0x00000000#32 ∧
    Sample.f32 d { softClipOf := .rat (1 / 2) } = 0x3EEC9A9F#32

/-- What no step may change (10_state.md R31, R34, R35, R36; 20_memory.md R80, R96): the configuration and the fault but for a
reset; the tables but for an outside write; the mix and output buffers, and the stuck reason, but for a PULL or a reset; the
slots and the song but for a command or a reset; the music and the song for an SFX command, the one-shot slots for MUSIC. A
table write, to a table memory in canonical form, changes that byte only, and no voice. -/
def Obligations.WholeMachineFrame : Prop :=
  ∀ s t : State, step s = .next t →
    ((∀ c rest, s.stream ≠ .reset c :: rest) → t.cfg = s.cfg ∧ t.fault = s.fault) ∧
    ((∀ a b rest, s.stream ≠ .tableWrite a b :: rest) → t.tables = s.tables) ∧
    (∀ a b rest, s.stream = .tableWrite a b :: rest → Memory.wf s.tables = true →
      t = { s with stream := rest, tables := t.tables } ∧ memRead t.tables a = b ∧
      ∀ a' : Addr, a' ≠ a → memRead t.tables a' = memRead s.tables a') ∧
    ((∀ c rest, s.stream ≠ .reset c :: rest) → (∀ w rest x, s.stream = .issue w :: rest → decode w ≠ .pull x) →
      t.mix = s.mix ∧ t.out = s.out ∧ t.stuck = s.stuck) ∧
    ((∀ c rest, s.stream ≠ .reset c :: rest) → (∀ w rest, s.stream ≠ .issue (.command w) :: rest) →
      t.sfx = s.sfx ∧ t.mus = s.mus ∧ t.song = s.song) ∧
    (∀ w rest, s.stream = .issue (.command w) :: rest → w.extractLsb' 28 4 = 0x1#4 →
      t = { s with stream := rest, sfx := t.sfx }) ∧
    (∀ w rest, s.stream = .issue (.command w) :: rest → w.extractLsb' 28 4 = 0x2#4 →
      t = { s with stream := rest, mus := t.mus, song := t.song })

/-- Sound never decides control: two blocks that differ only in their buffers' values, oscillators and draws take steps of the
same kind and stay so (44_pattern_sequencer.md R255, "noise draws never affect control flow"). -/
def Obligations.SoundNeverSteers : Prop :=
  ∀ s s' : State, s.SameControl s' →
    (∀ t, step s = .next t → ∃ t', step s' = .next t' ∧ t.SameControl t') ∧
    (∀ f, step s = .fault f → step s' = .fault f)

/-- Accumulation (42_envelope_renderer.md R186; 20_memory.md R90; 45_voice_mixer.md R294): what an update adds to each mix sample
does not depend on what the buffer holds, is nothing before the voice's cursor, and is at most 1 in magnitude where the
waveform functions stay in [−1, 1]. And what it adds is what process renders of the tasks it runs, one after another
(43_step_sequencer.md R219–R221; 42_envelope_renderer.md R181): with a task queued, the buffer from the cursor on becomes
process's, and the update goes on from there or ends at the buffer end; with none, it goes on with the next step scheduled, or
the voice dies. -/
def Obligations.MixAccumulates : Prop :=
  ∀ (cfg : Cfg) (v : Voice) (mix mix2 : List Exact) (draws : Nat), CfgValid cfg → v.Ok cfg → ¬ v.Z →
    mix.length = cfg.B → mix2.length = cfg.B →
    (∃ sum2, updateVoice cfg v mix2 draws = (updateVoice cfg v mix draws).withMix sum2 ∧
      (updateVoice cfg v mix draws).mix.length = cfg.B ∧ sum2.length = cfg.B ∧
      ∀ (i : Nat) (d : Valuation) (x x' y y' : Exact), mix[i]? = some x → (updateVoice cfg v mix draws).mix[i]? = some x' →
        mix2[i]? = some y → sum2[i]? = some y' →
        x'.val d - x.val d = y'.val d - y.val d ∧ (WavesInRange cfg.lit d cfg.waves → |x'.val d - x.val d| ≤ 1) ∧
        (i < v.cursor → x' = x)) ∧
    (∀ (task : RenderTask) (r : ProcessOut), v.task = some task →
      renderFrom cfg v.active (mix.drop v.cursor) task v.osc draws = r →
      (v.cursor + r.used < cfg.B → updateVoice cfg v mix draws =
        updateVoice cfg { v with task := none, cursor := v.cursor + r.used, osc := r.osc } (mix.take v.cursor ++ r.mix) r.draws) ∧
      (cfg.B ≤ v.cursor + r.used → updateVoice cfg v mix draws =
        .alive { v with task := some r.task, cursor := 0, osc := r.osc } (mix.take v.cursor ++ r.mix) r.draws)) ∧
    (v.task = none →
      (v.lastStep.val < v.step.val → updateVoice cfg v mix draws = .died { v with alive := false } mix draws) ∧
      (∀ k : Fin 32, k.val = v.step.val → k.val ≤ v.lastStep.val →
        updateVoice cfg v mix draws = updateVoice cfg (v.scheduleNote cfg.lit k v.instr.notes[k]) mix draws))
end

