-- ==== Sys2Proof/Laws/State.lean ====
section
/-! SUPPORT. One lemma for each field of State after each named update of it, so that no later proof unfolds a record update;
and the slot lemmas of `voice` and `setVoice`. -/

namespace Sys2Proof.Machine

/-! ## Fields after an update -/

/-! ### setMix -/

@[simp] theorem setMix_cfg (s : State) (i : Nat) (x : Exact) : (s.setMix i x).cfg = s.cfg := rfl
@[simp] theorem setMix_mix (s : State) (i : Nat) (x : Exact) : (s.setMix i x).mix = s.mix.set i x := rfl
@[simp] theorem setMix_out (s : State) (i : Nat) (x : Exact) : (s.setMix i x).out = s.out := rfl
@[simp] theorem setMix_sfx (s : State) (i : Nat) (x : Exact) : (s.setMix i x).sfx = s.sfx := rfl
@[simp] theorem setMix_mus (s : State) (i : Nat) (x : Exact) : (s.setMix i x).mus = s.mus := rfl
@[simp] theorem setMix_song (s : State) (i : Nat) (x : Exact) : (s.setMix i x).song = s.song := rfl
@[simp] theorem setMix_fault (s : State) (i : Nat) (x : Exact) : (s.setMix i x).fault = s.fault := rfl
@[simp] theorem setMix_stuck (s : State) (i : Nat) (x : Exact) : (s.setMix i x).stuck = s.stuck := rfl
@[simp] theorem setMix_tables (s : State) (i : Nat) (x : Exact) : (s.setMix i x).tables = s.tables := rfl
@[simp] theorem setMix_stream (s : State) (i : Nat) (x : Exact) : (s.setMix i x).stream = s.stream := rfl
@[simp] theorem setMix_draws (s : State) (i : Nat) (x : Exact) : (s.setMix i x).draws = s.draws := rfl
@[simp] theorem setMix_bench (s : State) (i : Nat) (x : Exact) : (s.setMix i x).bench = s.bench := rfl

/-! ### raiseCfgFault -/

@[simp] theorem raiseCfgFault_cfg (s : State) (f : CfgFault) : (s.raiseCfgFault f).cfg = s.cfg := rfl
@[simp] theorem raiseCfgFault_mix (s : State) (f : CfgFault) : (s.raiseCfgFault f).mix = s.mix := rfl
@[simp] theorem raiseCfgFault_out (s : State) (f : CfgFault) : (s.raiseCfgFault f).out = s.out := rfl
@[simp] theorem raiseCfgFault_sfx (s : State) (f : CfgFault) : (s.raiseCfgFault f).sfx = s.sfx := rfl
@[simp] theorem raiseCfgFault_mus (s : State) (f : CfgFault) : (s.raiseCfgFault f).mus = s.mus := rfl
@[simp] theorem raiseCfgFault_song (s : State) (f : CfgFault) : (s.raiseCfgFault f).song = s.song := rfl
@[simp] theorem raiseCfgFault_fault (s : State) (f : CfgFault) : (s.raiseCfgFault f).fault = some f := rfl
@[simp] theorem raiseCfgFault_stuck (s : State) (f : CfgFault) : (s.raiseCfgFault f).stuck = s.stuck := rfl
@[simp] theorem raiseCfgFault_tables (s : State) (f : CfgFault) : (s.raiseCfgFault f).tables = s.tables := rfl
@[simp] theorem raiseCfgFault_stream (s : State) (f : CfgFault) : (s.raiseCfgFault f).stream = s.stream := rfl
@[simp] theorem raiseCfgFault_draws (s : State) (f : CfgFault) : (s.raiseCfgFault f).draws = s.draws := rfl
@[simp] theorem raiseCfgFault_bench (s : State) (f : CfgFault) : (s.raiseCfgFault f).bench = s.bench := rfl

/-! ### getStuck -/

@[simp] theorem getStuck_cfg (s : State) (r : StuckReason) : (s.getStuck r).cfg = s.cfg := rfl
@[simp] theorem getStuck_mix (s : State) (r : StuckReason) : (s.getStuck r).mix = s.mix := rfl
@[simp] theorem getStuck_out (s : State) (r : StuckReason) : (s.getStuck r).out = s.out := rfl
@[simp] theorem getStuck_sfx (s : State) (r : StuckReason) : (s.getStuck r).sfx = s.sfx := rfl
@[simp] theorem getStuck_mus (s : State) (r : StuckReason) : (s.getStuck r).mus = s.mus := rfl
@[simp] theorem getStuck_song (s : State) (r : StuckReason) : (s.getStuck r).song = s.song := rfl
@[simp] theorem getStuck_fault (s : State) (r : StuckReason) : (s.getStuck r).fault = s.fault := rfl
@[simp] theorem getStuck_stuck (s : State) (r : StuckReason) : (s.getStuck r).stuck = some r := rfl
@[simp] theorem getStuck_tables (s : State) (r : StuckReason) : (s.getStuck r).tables = s.tables := rfl
@[simp] theorem getStuck_stream (s : State) (r : StuckReason) : (s.getStuck r).stream = s.stream := rfl
@[simp] theorem getStuck_draws (s : State) (r : StuckReason) : (s.getStuck r).draws = s.draws := rfl
@[simp] theorem getStuck_bench (s : State) (r : StuckReason) : (s.getStuck r).bench = s.bench := rfl

/-! ### clear -/

@[simp] theorem clear_cfg (s : State) : (s.clear).cfg = s.cfg := rfl
@[simp] theorem clear_mix (s : State) : (s.clear).mix = List.replicate s.cfg.B (.rat 0) := rfl
@[simp] theorem clear_out (s : State) : (s.clear).out = List.replicate s.cfg.B { softClipOf := .rat 0 } := rfl
@[simp] theorem clear_sfx (s : State) : (s.clear).sfx = Vector.replicate 4 none := rfl
@[simp] theorem clear_mus (s : State) : (s.clear).mus = Vector.replicate 4 none := rfl
@[simp] theorem clear_song (s : State) : (s.clear).song = SongState.reset := rfl
@[simp] theorem clear_fault (s : State) : (s.clear).fault = none := rfl
@[simp] theorem clear_stuck (s : State) : (s.clear).stuck = none := rfl
@[simp] theorem clear_tables (s : State) : (s.clear).tables = s.tables := rfl
@[simp] theorem clear_stream (s : State) : (s.clear).stream = s.stream := rfl
@[simp] theorem clear_draws (s : State) : (s.clear).draws = s.draws := rfl
@[simp] theorem clear_bench (s : State) : (s.clear).bench = none := rfl

/-! ### stopAllSfx -/

@[simp] theorem stopAllSfx_cfg (s : State) : (s.stopAllSfx).cfg = s.cfg := rfl
@[simp] theorem stopAllSfx_mix (s : State) : (s.stopAllSfx).mix = s.mix := rfl
@[simp] theorem stopAllSfx_out (s : State) : (s.stopAllSfx).out = s.out := rfl
@[simp] theorem stopAllSfx_sfx (s : State) : (s.stopAllSfx).sfx = Vector.replicate 4 none := rfl
@[simp] theorem stopAllSfx_mus (s : State) : (s.stopAllSfx).mus = s.mus := rfl
@[simp] theorem stopAllSfx_song (s : State) : (s.stopAllSfx).song = s.song := rfl
@[simp] theorem stopAllSfx_fault (s : State) : (s.stopAllSfx).fault = s.fault := rfl
@[simp] theorem stopAllSfx_stuck (s : State) : (s.stopAllSfx).stuck = s.stuck := rfl
@[simp] theorem stopAllSfx_tables (s : State) : (s.stopAllSfx).tables = s.tables := rfl
@[simp] theorem stopAllSfx_stream (s : State) : (s.stopAllSfx).stream = s.stream := rfl
@[simp] theorem stopAllSfx_draws (s : State) : (s.stopAllSfx).draws = s.draws := rfl
@[simp] theorem stopAllSfx_bench (s : State) : (s.stopAllSfx).bench = s.bench := rfl

/-! ### stopInstrument -/

@[simp] theorem stopInstrument_cfg (s : State) (n : Fin 64) : (s.stopInstrument n).cfg = s.cfg := rfl
@[simp] theorem stopInstrument_mix (s : State) (n : Fin 64) : (s.stopInstrument n).mix = s.mix := rfl
@[simp] theorem stopInstrument_out (s : State) (n : Fin 64) : (s.stopInstrument n).out = s.out := rfl
@[simp] theorem stopInstrument_sfx (s : State) (n : Fin 64) : (s.stopInstrument n).sfx = Vector.ofFn fun k => exceptInstrument n s.sfx[k] := rfl
@[simp] theorem stopInstrument_mus (s : State) (n : Fin 64) : (s.stopInstrument n).mus = s.mus := rfl
@[simp] theorem stopInstrument_song (s : State) (n : Fin 64) : (s.stopInstrument n).song = s.song := rfl
@[simp] theorem stopInstrument_fault (s : State) (n : Fin 64) : (s.stopInstrument n).fault = s.fault := rfl
@[simp] theorem stopInstrument_stuck (s : State) (n : Fin 64) : (s.stopInstrument n).stuck = s.stuck := rfl
@[simp] theorem stopInstrument_tables (s : State) (n : Fin 64) : (s.stopInstrument n).tables = s.tables := rfl
@[simp] theorem stopInstrument_stream (s : State) (n : Fin 64) : (s.stopInstrument n).stream = s.stream := rfl
@[simp] theorem stopInstrument_draws (s : State) (n : Fin 64) : (s.stopInstrument n).draws = s.draws := rfl
@[simp] theorem stopInstrument_bench (s : State) (n : Fin 64) : (s.stopInstrument n).bench = s.bench := rfl

/-! ### zeroMix -/

@[simp] theorem zeroMix_cfg (s : State) : (s.zeroMix).cfg = s.cfg := rfl
@[simp] theorem zeroMix_mix (s : State) : (s.zeroMix).mix = List.replicate s.cfg.B (.rat 0) := rfl
@[simp] theorem zeroMix_out (s : State) : (s.zeroMix).out = s.out := rfl
@[simp] theorem zeroMix_sfx (s : State) : (s.zeroMix).sfx = s.sfx := rfl
@[simp] theorem zeroMix_mus (s : State) : (s.zeroMix).mus = s.mus := rfl
@[simp] theorem zeroMix_song (s : State) : (s.zeroMix).song = s.song := rfl
@[simp] theorem zeroMix_fault (s : State) : (s.zeroMix).fault = s.fault := rfl
@[simp] theorem zeroMix_stuck (s : State) : (s.zeroMix).stuck = s.stuck := rfl
@[simp] theorem zeroMix_tables (s : State) : (s.zeroMix).tables = s.tables := rfl
@[simp] theorem zeroMix_stream (s : State) : (s.zeroMix).stream = s.stream := rfl
@[simp] theorem zeroMix_draws (s : State) : (s.zeroMix).draws = s.draws := rfl
@[simp] theorem zeroMix_bench (s : State) : (s.zeroMix).bench = s.bench := rfl

/-! ### publish -/

@[simp] theorem publish_cfg (s : State) : (s.publish).cfg = s.cfg := rfl
@[simp] theorem publish_mix (s : State) : (s.publish).mix = s.mix := rfl
@[simp] theorem publish_out (s : State) : (s.publish).out = s.mix.map Sample.mk := rfl
@[simp] theorem publish_sfx (s : State) : (s.publish).sfx = s.sfx := rfl
@[simp] theorem publish_mus (s : State) : (s.publish).mus = s.mus := rfl
@[simp] theorem publish_song (s : State) : (s.publish).song = s.song := rfl
@[simp] theorem publish_fault (s : State) : (s.publish).fault = s.fault := rfl
@[simp] theorem publish_stuck (s : State) : (s.publish).stuck = s.stuck := rfl
@[simp] theorem publish_tables (s : State) : (s.publish).tables = s.tables := rfl
@[simp] theorem publish_stream (s : State) : (s.publish).stream = s.stream := rfl
@[simp] theorem publish_draws (s : State) : (s.publish).draws = s.draws := rfl
@[simp] theorem publish_bench (s : State) : (s.publish).bench = s.bench := rfl

/-! ### enterStopped -/

@[simp] theorem enterStopped_cfg (s : State) : (s.enterStopped).cfg = s.cfg := rfl
@[simp] theorem enterStopped_mix (s : State) : (s.enterStopped).mix = s.mix := rfl
@[simp] theorem enterStopped_out (s : State) : (s.enterStopped).out = s.out := rfl
@[simp] theorem enterStopped_sfx (s : State) : (s.enterStopped).sfx = s.sfx := rfl
@[simp] theorem enterStopped_mus (s : State) : (s.enterStopped).mus = Vector.replicate 4 none := rfl
@[simp] theorem enterStopped_song (s : State) : (s.enterStopped).song = { s.song with mode := .stopped } := rfl
@[simp] theorem enterStopped_fault (s : State) : (s.enterStopped).fault = s.fault := rfl
@[simp] theorem enterStopped_stuck (s : State) : (s.enterStopped).stuck = s.stuck := rfl
@[simp] theorem enterStopped_tables (s : State) : (s.enterStopped).tables = s.tables := rfl
@[simp] theorem enterStopped_stream (s : State) : (s.enterStopped).stream = s.stream := rfl
@[simp] theorem enterStopped_draws (s : State) : (s.enterStopped).draws = s.draws := rfl
@[simp] theorem enterStopped_bench (s : State) : (s.enterStopped).bench = s.bench := rfl

/-! ### setUpPattern -/

@[simp] theorem setUpPattern_cfg (s : State) (p : Fin 64) : (s.setUpPattern p).cfg = s.cfg := rfl
@[simp] theorem setUpPattern_mix (s : State) (p : Fin 64) : (s.setUpPattern p).mix = s.mix := rfl
@[simp] theorem setUpPattern_out (s : State) (p : Fin 64) : (s.setUpPattern p).out = s.out := rfl
@[simp] theorem setUpPattern_sfx (s : State) (p : Fin 64) : (s.setUpPattern p).sfx = s.sfx := rfl
@[simp] theorem setUpPattern_mus (s : State) (p : Fin 64) : (s.setUpPattern p).mus = Vector.ofFn fun k => s.patternVoice (s.decodePattern p) s.carriedCursor k := rfl
@[simp] theorem setUpPattern_song (s : State) (p : Fin 64) : (s.setUpPattern p).song = { s.song with cur := s.decodePattern p, ref := selectRef (Vector.ofFn fun k => s.patternVoice (s.decodePattern p) s.carriedCursor k) } := rfl
@[simp] theorem setUpPattern_fault (s : State) (p : Fin 64) : (s.setUpPattern p).fault = s.fault := rfl
@[simp] theorem setUpPattern_stuck (s : State) (p : Fin 64) : (s.setUpPattern p).stuck = s.stuck := rfl
@[simp] theorem setUpPattern_tables (s : State) (p : Fin 64) : (s.setUpPattern p).tables = s.tables := rfl
@[simp] theorem setUpPattern_stream (s : State) (p : Fin 64) : (s.setUpPattern p).stream = s.stream := rfl
@[simp] theorem setUpPattern_draws (s : State) (p : Fin 64) : (s.setUpPattern p).draws = s.draws := rfl
@[simp] theorem setUpPattern_bench (s : State) (p : Fin 64) : (s.setUpPattern p).bench = s.bench := rfl

/-! ### writeTable -/

@[simp] theorem writeTable_cfg (s : State) (a : Addr) (b : Byte) : (s.writeTable a b).cfg = s.cfg := rfl
@[simp] theorem writeTable_mix (s : State) (a : Addr) (b : Byte) : (s.writeTable a b).mix = s.mix := rfl
@[simp] theorem writeTable_out (s : State) (a : Addr) (b : Byte) : (s.writeTable a b).out = s.out := rfl
@[simp] theorem writeTable_sfx (s : State) (a : Addr) (b : Byte) : (s.writeTable a b).sfx = s.sfx := rfl
@[simp] theorem writeTable_mus (s : State) (a : Addr) (b : Byte) : (s.writeTable a b).mus = s.mus := rfl
@[simp] theorem writeTable_song (s : State) (a : Addr) (b : Byte) : (s.writeTable a b).song = s.song := rfl
@[simp] theorem writeTable_fault (s : State) (a : Addr) (b : Byte) : (s.writeTable a b).fault = s.fault := rfl
@[simp] theorem writeTable_stuck (s : State) (a : Addr) (b : Byte) : (s.writeTable a b).stuck = s.stuck := rfl
@[simp] theorem writeTable_tables (s : State) (a : Addr) (b : Byte) : (s.writeTable a b).tables = memWrite s.tables a b := rfl
@[simp] theorem writeTable_stream (s : State) (a : Addr) (b : Byte) : (s.writeTable a b).stream = s.stream := rfl
@[simp] theorem writeTable_draws (s : State) (a : Addr) (b : Byte) : (s.writeTable a b).draws = s.draws := rfl
@[simp] theorem writeTable_bench (s : State) (a : Addr) (b : Byte) : (s.writeTable a b).bench = s.bench := rfl

/-! ### selectVoice -/

@[simp] theorem selectVoice_cfg (s : State) (slot : SlotId) : (s.selectVoice slot).cfg = s.cfg := rfl
@[simp] theorem selectVoice_mix (s : State) (slot : SlotId) : (s.selectVoice slot).mix = s.mix := rfl
@[simp] theorem selectVoice_out (s : State) (slot : SlotId) : (s.selectVoice slot).out = s.out := rfl
@[simp] theorem selectVoice_sfx (s : State) (slot : SlotId) : (s.selectVoice slot).sfx = s.sfx := rfl
@[simp] theorem selectVoice_mus (s : State) (slot : SlotId) : (s.selectVoice slot).mus = s.mus := rfl
@[simp] theorem selectVoice_song (s : State) (slot : SlotId) : (s.selectVoice slot).song = s.song := rfl
@[simp] theorem selectVoice_fault (s : State) (slot : SlotId) : (s.selectVoice slot).fault = s.fault := rfl
@[simp] theorem selectVoice_stuck (s : State) (slot : SlotId) : (s.selectVoice slot).stuck = s.stuck := rfl
@[simp] theorem selectVoice_tables (s : State) (slot : SlotId) : (s.selectVoice slot).tables = s.tables := rfl
@[simp] theorem selectVoice_stream (s : State) (slot : SlotId) : (s.selectVoice slot).stream = s.stream := rfl
@[simp] theorem selectVoice_draws (s : State) (slot : SlotId) : (s.selectVoice slot).draws = s.draws := rfl
@[simp] theorem selectVoice_bench (s : State) (slot : SlotId) : (s.selectVoice slot).bench = (s.voice slot).map (benchOf s.cfg) := rfl

/-! ### scheduleOnBench and renderOnBench: only the bench, and the count of draws -/

/-- A scheduling on the bench writes the bench only. -/
theorem scheduleOnBench_frame (s : State) (rule : Voice → Fin 32 → Voice) : ∃ b, s.scheduleOnBench rule = { s with bench := b } := by
  unfold State.scheduleOnBench
  rcases hb : s.bench with _ | b
  · exact ⟨none, by simp [← hb]⟩
  · dsimp only
    rcases b.voice.task with _ | t <;> rcases b.voice.playable with _ | k
    · exact ⟨some b, by simp [← hb]⟩
    · exact ⟨_, rfl⟩
    · exact ⟨some b, by simp [← hb]⟩
    · exact ⟨some b, by simp [← hb]⟩

/-- A sample rendered on the bench writes the bench and the count of draws only. -/
theorem renderOnBench_frame (s : State) (step : OscFn) : ∃ b d, s.renderOnBench step = { s with bench := b, draws := d } := by
  unfold State.renderOnBench
  rcases hb : s.bench with _ | b
  · exact ⟨none, s.draws, by simp [← hb]⟩
  · dsimp only
    rcases b.voice.task with _ | t <;> rcases b.mix[b.voice.cursor]? with _ | m
    · exact ⟨some b, s.draws, by simp [← hb]⟩
    · exact ⟨some b, s.draws, by simp [← hb]⟩
    · exact ⟨some b, s.draws, by simp [← hb]⟩
    · dsimp only
      split
      · exact ⟨some b, s.draws, by simp [← hb]⟩
      · exact ⟨_, _, rfl⟩

/-! ### setVoice -/

@[simp] theorem setVoice_cfg (s : State) (slot : SlotId) (v : Option Voice) : (s.setVoice slot v).cfg = s.cfg := by
  cases slot <;> rfl
@[simp] theorem setVoice_mix (s : State) (slot : SlotId) (v : Option Voice) : (s.setVoice slot v).mix = s.mix := by
  cases slot <;> rfl
@[simp] theorem setVoice_out (s : State) (slot : SlotId) (v : Option Voice) : (s.setVoice slot v).out = s.out := by
  cases slot <;> rfl
@[simp] theorem setVoice_song (s : State) (slot : SlotId) (v : Option Voice) : (s.setVoice slot v).song = s.song := by
  cases slot <;> rfl
@[simp] theorem setVoice_fault (s : State) (slot : SlotId) (v : Option Voice) : (s.setVoice slot v).fault = s.fault := by
  cases slot <;> rfl
@[simp] theorem setVoice_stuck (s : State) (slot : SlotId) (v : Option Voice) : (s.setVoice slot v).stuck = s.stuck := by
  cases slot <;> rfl
@[simp] theorem setVoice_tables (s : State) (slot : SlotId) (v : Option Voice) : (s.setVoice slot v).tables = s.tables := by
  cases slot <;> rfl
@[simp] theorem setVoice_stream (s : State) (slot : SlotId) (v : Option Voice) : (s.setVoice slot v).stream = s.stream := by
  cases slot <;> rfl
@[simp] theorem setVoice_draws (s : State) (slot : SlotId) (v : Option Voice) : (s.setVoice slot v).draws = s.draws := by
  cases slot <;> rfl
@[simp] theorem setVoice_bench (s : State) (slot : SlotId) (v : Option Voice) : (s.setVoice slot v).bench = s.bench := by
  cases slot <;> rfl

@[simp] theorem setVoice_sfx_sfx (s : State) (k : Fin 4) (v : Option Voice) : (s.setVoice (.sfx k) v).sfx = s.sfx.set k v := rfl
@[simp] theorem setVoice_sfx_mus (s : State) (k : Fin 4) (v : Option Voice) : (s.setVoice (.sfx k) v).mus = s.mus := rfl
@[simp] theorem setVoice_mus_sfx (s : State) (k : Fin 4) (v : Option Voice) : (s.setVoice (.mus k) v).sfx = s.sfx := rfl
@[simp] theorem setVoice_mus_mus (s : State) (k : Fin 4) (v : Option Voice) : (s.setVoice (.mus k) v).mus = s.mus.set k v := rfl

/-! ## Slots -/

@[simp] theorem voice_sfx (s : State) (k : Fin 4) : s.voice (.sfx k) = s.sfx[k] := rfl
@[simp] theorem voice_mus (s : State) (k : Fin 4) : s.voice (.mus k) = s.mus[k] := rfl

/-- A slot holds what was last put into it. -/
@[simp] theorem voice_setVoice_same (s : State) (slot : SlotId) (v : Option Voice) : (s.setVoice slot v).voice slot = v := by
  cases slot <;> simp

/-- Every other slot holds what it held. -/
theorem voice_setVoice_other (s : State) (slot slot' : SlotId) (v : Option Voice) (h : slot ≠ slot') :
    (s.setVoice slot v).voice slot' = s.voice slot' := by
  cases slot <;> cases slot' <;> simp_all [Fin.ext_iff]

/-- What a slot holds after a slot was written. -/
theorem voice_setVoice (s : State) (slot slot' : SlotId) (v : Option Voice) :
    (s.setVoice slot v).voice slot' = if slot = slot' then v else s.voice slot' := by
  by_cases h : slot = slot'
  · subst h; simp
  · simp [h, voice_setVoice_other s slot slot' v h]

/-! ## Voices after an update -/

@[simp] theorem die_alive (v : Voice) : v.die.alive = false := rfl
@[simp] theorem die_cursor (v : Voice) : v.die.cursor = v.cursor := rfl
@[simp] theorem die_instrIdx (v : Voice) : v.die.instrIdx = v.instrIdx := rfl
@[simp] theorem release_loop (v : Voice) : v.release.loop = false := rfl
@[simp] theorem release_instrIdx (v : Voice) : v.release.instrIdx = v.instrIdx := rfl
@[simp] theorem release_cursor (v : Voice) : v.release.cursor = v.cursor := rfl
@[simp] theorem release_task (v : Voice) : v.release.task = v.task := rfl

section ScheduleAs
variable (v : Voice) (k : Fin 32) (note : NoteFields) (p : Policy) (pend : Option Rat)

@[simp] theorem scheduleAs_instrIdx : (v.scheduleAs k note p pend).instrIdx = v.instrIdx := rfl
@[simp] theorem scheduleAs_instr : (v.scheduleAs k note p pend).instr = v.instr := rfl
@[simp] theorem scheduleAs_step : (v.scheduleAs k note p pend).step = v.stepAfter k := rfl
@[simp] theorem scheduleAs_lastStep : (v.scheduleAs k note p pend).lastStep = v.lastStep := rfl
@[simp] theorem scheduleAs_alive : (v.scheduleAs k note p pend).alive = v.alive := rfl
@[simp] theorem scheduleAs_active : (v.scheduleAs k note p pend).active = v.active := rfl
@[simp] theorem scheduleAs_loop : (v.scheduleAs k note p pend).loop = v.loop := rfl
@[simp] theorem scheduleAs_cursor : (v.scheduleAs k note p pend).cursor = v.cursor := rfl
@[simp] theorem scheduleAs_task : (v.scheduleAs k note p pend).task = some (v.taskOf note p) := rfl
@[simp] theorem scheduleAs_pendFade : (v.scheduleAs k note p pend).pendFade = pend := rfl
@[simp] theorem scheduleAs_prevPitch : (v.scheduleAs k note p pend).prevPitch = some note.pitch := rfl
@[simp] theorem scheduleAs_osc : (v.scheduleAs k note p pend).osc = v.osc := rfl

end ScheduleAs

end Sys2Proof.Machine
end

