-- ==== Sys2Proof/Laws/Commands.lean ====
section
/-! SUPPORT. What the operands of a command name, and what the slot search of SFX_PLAY finds, said once each. -/

namespace Sys2Proof.Machine

/-! ## Operands -/

/-- An operand names slot `k` exactly when it is `k`. -/
theorem slotOf_eq_some {ch : Int} {k : Fin 4} : slotOf ch = some k ↔ ch = (k.val : Int) := by
  unfold slotOf
  split
  · simp only [Option.some.injEq, Fin.ext_iff]
    omega
  · simp only [reduceCtorEq, false_iff]
    omega

/-- An operand outside 0..3 names no slot. -/
theorem slotOf_eq_none {ch : Int} : slotOf ch = none ↔ ¬ (0 ≤ ch ∧ ch ≤ 3) := by
  unfold slotOf
  split <;> simp_all

/-- An operand names index `n` exactly when it is `n`. -/
theorem indexOf_eq_some {n : Int} {i : Fin 64} : indexOf n = some i ↔ n = (i.val : Int) := by
  unfold indexOf
  split
  · simp only [Option.some.injEq, Fin.ext_iff]
    omega
  · simp only [reduceCtorEq, false_iff]
    omega

@[simp] theorem indexOf_val (i : Fin 64) : indexOf (i.val : Int) = some i := indexOf_eq_some.mpr rfl

/-- An operand outside 0..63 names no instrument and no pattern. -/
theorem indexOf_eq_none {n : Int} : indexOf n = none ↔ ¬ (0 ≤ n ∧ n ≤ 63) := by
  unfold indexOf
  split <;> simp_all

/-- The valid channel operands. -/
theorem validChannel_iff {ch : Int} : validChannel ch = true ↔ -2 ≤ ch ∧ ch ≤ 3 := by
  simp [validChannel]

/-! ## The slot search -/

/-- No slot is free. -/
theorem firstFree_eq_none {s : State} : s.firstFree = none ↔ ∀ k : Fin 4, s.sfx[k] ≠ none := by
  unfold State.firstFree
  rw [List.find?_eq_none]
  simp [channelList, Fin.forall_fin_succ, Option.isNone_iff_eq_none]

/-- The slot found is free, and no lower one is. -/
theorem firstFree_eq_some {s : State} {k : Fin 4} :
    s.firstFree = some k ↔ s.sfx[k] = none ∧ ∀ j : Fin 4, j < k → s.sfx[j] ≠ none := by
  have e : ∀ (a b c d : Bool) (k : Fin 4) (f : Fin 4 → Bool), f 0 = a → f 1 = b → f 2 = c → f 3 = d →
      (List.find? f [0, 1, 2, 3] = some k ↔ f k = true ∧ ∀ j < k, f j ≠ true) := by
    intro a b c d k f h0 h1 h2 h3
    have h4 : f = fun k => if k = 0 then a else if k = 1 then b else if k = 2 then c else d := by
      funext k
      fin_cases k <;> simp_all
    subst h4
    clear h0 h1 h2 h3
    revert k a b c d
    decide
  unfold State.firstFree channelList
  rw [e _ _ _ _ k (fun k : Fin 4 => s.sfx[k].isNone) rfl rfl rfl rfl]
  simp [Option.isNone_iff_eq_none]

/-! ## Voice start -/

/-- Decoding an instrument reads the configuration and the tables only. -/
theorem decodeInstrument_congr {s t : State} (hc : s.cfg = t.cfg) (ht : s.tables = t.tables) (n : Fin 64) :
    s.decodeInstrument n = t.decodeInstrument n := by
  simp only [State.decodeInstrument, State.noteWordAt, State.instrByte, hc, ht]

/-- Decoding a pattern reads the configuration and the tables only. -/
theorem decodePattern_congr {s t : State} (hc : s.cfg = t.cfg) (ht : s.tables = t.tables) (p : Fin 64) :
    s.decodePattern p = t.decodePattern p := by
  simp only [State.decodePattern, State.patternByte, hc, ht]

/-- Starting a voice reads the configuration and the tables only. -/
theorem startVoice_congr {s t : State} (hc : s.cfg = t.cfg) (ht : s.tables = t.tables) (n : Fin 64) (off len : Int) (c : Nat) :
    s.startVoice n off len c = t.startVoice n off len c := by
  simp only [State.startVoice, decodeInstrument_congr hc ht, hc]

/-- The first step of a voice is the offset, clamped. -/
theorem firstStep_val (off : Int) : ((firstStep off).val : Int) = min (max off 0) 31 := by
  simp only [firstStep, clampStep, clampI, Fin.val_castSucc]
  omega

/-- The last step of a voice is the end of the given range, clamped. -/
theorem lastPlayable_val (off len : Int) : ((lastPlayable off len).val : Int) = min (max (off + len - 1) 0) 31 := by
  simp only [lastPlayable, clampStep, clampI]
  omega

/-- A voice start gives the voice of R201, field by field. -/
theorem isFreshVoice_startVoice (s : State) (n : Fin 64) (off len : Int) (c : Nat) :
    IsFreshVoice s n off len c (s.startVoice n off len c) where
  instrIdx_eq := rfl
  instr_eq := rfl
  step_eq := firstStep_val off
  lastStep_eq := lastPlayable_val off len
  alive_eq := rfl
  active_eq := rfl
  loop_eq := rfl
  cursor_eq := rfl
  task_eq := rfl
  pendFade_eq := rfl
  prevPitch_eq := rfl
  phase_eq := rfl
  ns_eq := rfl
  rng_eq := by
    simp only [State.startVoice, freshOsc]
    cases s.cfg.noise <;> rfl

/-- The slots that setUpPattern fills are those of R241. -/
theorem isPatternAt_ofFn (s : State) (p : Fin 64) (c : Nat) :
    IsPatternAt s p c (Vector.ofFn fun k => s.patternVoice (s.decodePattern p) c k) := by
  intro k
  constructor
  · intro h
    simp only [Fin.getElem_fin] at h
    simp [State.patternVoice, h]
  · intro h
    refine ⟨s.startVoice (s.decodePattern p).channels[k].instrumentIndex 0 s.cfg.lit.defaultLength c, ?_, isFreshVoice_startVoice ..⟩
    simp only [Fin.getElem_fin] at h
    simp [State.patternVoice, h]

end Sys2Proof.Machine
end

