-- ==== Sys2Proof/Laws/Memory.lean ====
section
/-! SUPPORT. The table memory: a read after a write, and that a write keeps the canonical form. -/

namespace Sys2Proof.Machine

/-- Every address of a sorted memory lies above its lower bound. -/
theorem memRead_of_le {lo : Int} {m : Memory} (h : memSorted lo m = true) {a : Addr} (ha : (a.toNat : Int) ≤ lo) :
    memRead m a = Config.blankByte := by
  induction m generalizing lo with
  | nil => rfl
  | cons c rest ih =>
    obtain ⟨k, x⟩ := c
    simp only [memSorted, Bool.and_eq_true, decide_eq_true_eq] at h
    have hk : k ≠ a.toNat := by omega
    simp only [memRead, hk, if_false]
    exact ih h.2 (by omega)

/-- A sorted memory is sorted above any lower bound. -/
theorem memSorted_mono {lo lo' : Int} {m : Memory} (h : memSorted lo m = true) (hl : lo' ≤ lo) : memSorted lo' m = true := by
  cases m with
  | nil => rfl
  | cons c rest =>
    obtain ⟨k, x⟩ := c
    simp only [memSorted, Bool.and_eq_true, decide_eq_true_eq] at h ⊢
    exact ⟨⟨⟨by omega, h.1.1.2⟩, h.1.2⟩, h.2⟩

/-- A write keeps a memory sorted above a bound below the address written. -/
theorem memSorted_write {lo : Int} {m : Memory} (h : memSorted lo m = true) (a : Addr) (b : Byte) (ha : lo < (a.toNat : Int)) :
    memSorted lo (memWrite m a b) = true := by
  have hlt : a.toNat < 65536 := a.isLt
  induction m generalizing lo with
  | nil =>
    by_cases hb : b = Config.blankByte
    · simp [memWrite, memSorted, hb]
    · simp only [memWrite, hb, if_false, memSorted, Bool.and_true, Bool.and_eq_true, decide_eq_true_eq]
      exact ⟨⟨ha, hlt⟩, hb⟩
  | cons c rest ih =>
    obtain ⟨k, x⟩ := c
    have h' := h
    simp only [memSorted, Bool.and_eq_true, decide_eq_true_eq] at h'
    unfold memWrite
    by_cases h1 : a.toNat < k
    · by_cases hb : b = Config.blankByte
      · simpa [h1, hb] using h
      · simp only [h1, hb, if_true, if_false, memSorted, Bool.and_eq_true, decide_eq_true_eq]
        exact ⟨⟨⟨ha, hlt⟩, hb⟩, ⟨⟨by omega, h'.1.1.2⟩, h'.1.2⟩, h'.2⟩
    · by_cases h2 : a.toNat = k
      · by_cases hb : b = Config.blankByte
        · simp only [h2, hb, if_true, lt_irrefl, if_false]
          exact memSorted_mono h'.2 (by omega)
        · simp only [h2, hb, if_true, if_false, lt_irrefl, memSorted, Bool.and_eq_true, decide_eq_true_eq]
          exact ⟨⟨⟨by omega, h'.1.1.2⟩, hb⟩, h'.2⟩
      · simp only [h1, h2, if_false, memSorted, Bool.and_eq_true, decide_eq_true_eq]
        exact ⟨⟨⟨h'.1.1.1, h'.1.1.2⟩, h'.1.2⟩, ih h'.2 (by omega)⟩

/-- A write keeps the canonical form. -/
theorem memWrite_wf {m : Memory} (h : Memory.wf m = true) (a : Addr) (b : Byte) : Memory.wf (memWrite m a b) = true :=
  memSorted_write h a b (by omega)

/-- What a read gives after a write to a sorted memory. -/
theorem memRead_write_sorted {lo : Int} {m : Memory} (h : memSorted lo m = true) (a c : Addr) (b : Byte) :
    memRead (memWrite m a b) c = if c = a then b else memRead m c := by
  induction m generalizing lo with
  | nil =>
    by_cases hb : b = Config.blankByte
    · simp [memWrite, memRead, hb]
    · by_cases hc : c = a
      · simp [memWrite, memRead, hb, hc]
      · have : a.toNat ≠ c.toNat := fun e => hc (BitVec.eq_of_toNat_eq e.symm)
        simp [memWrite, memRead, hb, hc, this]
  | cons e rest ih =>
    obtain ⟨k, x⟩ := e
    simp only [memSorted, Bool.and_eq_true, decide_eq_true_eq] at h
    by_cases h1 : a.toNat < k
    · by_cases hc : c = a
      · subst hc
        have hk : k ≠ c.toNat := by omega
        by_cases hb : b = Config.blankByte
        · simp [memWrite, memRead, h1, hb, hk, memRead_of_le h.2 (by omega : (c.toNat : Int) ≤ k)]
        · simp [memWrite, memRead, h1, hb]
      · have : a.toNat ≠ c.toNat := fun e => hc (BitVec.eq_of_toNat_eq e.symm)
        by_cases hb : b = Config.blankByte <;> simp [memWrite, memRead, h1, hb, hc, this]
    · by_cases h2 : a.toNat = k
      · by_cases hc : c = a
        · subst hc
          by_cases hb : b = Config.blankByte
          · simp [memWrite, h2, hb, memRead_of_le h.2 (by omega : (c.toNat : Int) ≤ k)]
          · simp [memWrite, memRead, h2, hb]
        · have h3 : a.toNat ≠ c.toNat := fun e => hc (BitVec.eq_of_toNat_eq e.symm)
          have hk : k ≠ c.toNat := by omega
          by_cases hb : b = Config.blankByte <;> simp [memWrite, memRead, h2, hb, hc, hk]
      · by_cases hk : k = c.toNat
        · have hc : c ≠ a := fun e => h2 (by rw [← e, hk])
          simp [memWrite, memRead, h1, h2, hk.symm, hc]
        · simp only [memWrite, h1, h2, if_false, memRead, hk]
          exact ih h.2

/-- Read after write: the address written gives the byte written, every other what it gave. -/
theorem memRead_memWrite {m : Memory} (h : Memory.wf m = true) (a c : Addr) (b : Byte) :
    memRead (memWrite m a b) c = if c = a then b else memRead m c :=
  memRead_write_sorted h a c b

/-- The empty memory is in canonical form. -/
theorem memory_nil_wf : Memory.wf ([] : Memory) = true := rfl

end Sys2Proof.Machine
end

