-- ==== Sys2Proof/Laws/Numbers.lean ====
section
/-! SUPPORT. The arithmetic that builds exact numbers has the value of the real operation it is named after. -/

namespace Sys2Proof

variable (d : Valuation)

@[simp] theorem val_rat (q : Rat) : (Exact.rat q).val d = (q : ℝ) := rfl
@[simp] theorem val_rom (k : Fin 128) : (Exact.rom k).val d = romHz k.val := rfl
@[simp] theorem val_pitch (q : Rat) : (Exact.pitch q).val d = 440 * (2 : ℝ) ^ (((q : ℝ) - 33) / 12) := rfl
@[simp] theorem val_outside (k : Nat) (x : Exact) : (Exact.outside k x).val d = d.outside k (x.val d) := rfl
@[simp] theorem val_sinTurn (x : Exact) : (Exact.sinTurn x).val d = Real.sin (2 * Real.pi * x.val d) := rfl
@[simp] theorem val_draw (n : Nat) : (Exact.draw n).val d = d.value n := rfl

/-- An expression that is a rational has that rational's value. -/
theorem eq_rat_of_asRat {x : Exact} {q : Rat} (h : x.asRat = some q) : x = .rat q := by
  cases x <;> simp_all [Exact.asRat]

theorem val_of_asRat {x : Exact} {q : Rat} (h : x.asRat = some q) : x.val d = (q : ℝ) := by
  rw [eq_rat_of_asRat h]; rfl

@[simp] theorem val_add (x y : Exact) : (x.add y).val d = x.val d + y.val d := by
  unfold Exact.add
  rcases hx : x.asRat with _ | a <;> rcases hy : y.asRat with _ | b
  · rfl
  · dsimp only
    split
    · rename_i h; simp [val_of_asRat d hy, h]
    · rfl
  · dsimp only
    split
    · rename_i h; simp [val_of_asRat d hx, h]
    · rfl
  · simp [val_of_asRat d hx, val_of_asRat d hy]

@[simp] theorem val_mul (x y : Exact) : (x.mul y).val d = x.val d * y.val d := by
  unfold Exact.mul
  rcases hx : x.asRat with _ | a <;> rcases hy : y.asRat with _ | b
  · rfl
  · dsimp only
    split
    · rename_i h; simp [val_of_asRat d hy, h]
    · split
      · rename_i h; simp [val_of_asRat d hy, h]
      · rfl
  · dsimp only
    split
    · rename_i h; simp [val_of_asRat d hx, h]
    · split
      · rename_i h; simp [val_of_asRat d hx, h]
      · rfl
  · simp [val_of_asRat d hx, val_of_asRat d hy]

@[simp] theorem val_scale (q : Rat) (x : Exact) : (Exact.scale q x).val d = (q : ℝ) * x.val d := by
  simp [Exact.scale]

@[simp] theorem val_shift (x : Exact) (q : Rat) : (x.shift q).val d = x.val d + (q : ℝ) := by
  simp [Exact.shift]

@[simp] theorem val_sub (x y : Exact) : (x.sub y).val d = x.val d - y.val d := by
  unfold Exact.sub
  split
  · rename_i h; simp [h]
  · simp; ring

@[simp] theorem val_inv (x : Exact) : x.inv.val d = (x.val d)⁻¹ := by
  unfold Exact.inv
  rcases hx : x.asRat with _ | a
  · rfl
  · simp [val_of_asRat d hx]

@[simp] theorem val_div (x y : Exact) : (x.div y).val d = x.val d / y.val d := by
  simp [Exact.div, div_eq_mul_inv]

/-- The remainder on rationals is the real one. -/
theorem ratMod_cast (q m : Rat) : ((ratMod q m : Rat) : ℝ) = (q : ℝ) - (m : ℝ) * (⌊(q : ℝ) / (m : ℝ)⌋ : ℝ) := by
  have h : ⌊(q : ℝ) / (m : ℝ)⌋ = (q / m).floor := by
    rw [← Rat.cast_div, Rat.floor_cast]; rfl
  simp [ratMod, h]

@[simp] theorem val_mod (x : Exact) (m : Rat) : (x.mod m).val d = x.val d - (m : ℝ) * (⌊x.val d / (m : ℝ)⌋ : ℝ) := by
  unfold Exact.mod
  rcases hx : x.asRat with _ | a
  · rfl
  · simp [val_of_asRat d hx, ratMod_cast]

@[simp] theorem val_frac (x : Exact) : x.frac.val d = Int.fract (x.val d) := by
  rw [Exact.frac, val_mod, ← Int.self_sub_floor]
  simp

@[simp] theorem val_abs (x : Exact) : x.abs.val d = |x.val d| := by
  unfold Exact.abs
  rcases hx : x.asRat with _ | a
  · rfl
  · rw [val_of_asRat d hx]
    dsimp only
    split
    · rename_i h
      have : (a : ℝ) < 0 := by exact_mod_cast h
      simp [abs_of_neg this]
    · rename_i h
      have : (0 : ℝ) ≤ a := by exact_mod_cast not_lt.mp h
      simp [abs_of_nonneg this]

@[simp] theorem val_min (x y : Exact) : (x.min y).val d = min (x.val d) (y.val d) := by
  unfold Exact.min
  rcases hx : x.asRat with _ | a <;> rcases hy : y.asRat with _ | b <;> try rfl
  rw [val_of_asRat d hx, val_of_asRat d hy]
  dsimp only
  split
  · rename_i h
    have : (a : ℝ) ≤ b := by exact_mod_cast h
    simp [min_eq_left this]
  · rename_i h
    have : (b : ℝ) ≤ a := by exact_mod_cast (not_le.mp h).le
    simp [min_eq_right this]

@[simp] theorem val_max (x y : Exact) : (x.max y).val d = max (x.val d) (y.val d) := by
  unfold Exact.max
  rcases hx : x.asRat with _ | a <;> rcases hy : y.asRat with _ | b <;> try rfl
  rw [val_of_asRat d hx, val_of_asRat d hy]
  dsimp only
  split
  · rename_i h
    have : (a : ℝ) ≤ b := by exact_mod_cast h
    simp [max_eq_right this]
  · rename_i h
    have : (b : ℝ) ≤ a := by exact_mod_cast (not_le.mp h).le
    simp [max_eq_left this]

@[simp] theorem val_clamp (x : Exact) (lo hi : Rat) :
    (x.clamp lo hi).val d = min (max (x.val d) (lo : ℝ)) (hi : ℝ) := by
  simp [Exact.clamp]

@[simp] theorem val_cond (a b x y : Exact) :
    (Exact.cond a b x y).val d = if a.val d < b.val d then x.val d else y.val d := by
  unfold Exact.cond
  rcases ha : a.asRat with _ | p <;> rcases hb : b.asRat with _ | q <;> try rfl
  rw [val_of_asRat d ha, val_of_asRat d hb]
  dsimp only
  by_cases h : p < q
  · have : (p : ℝ) < q := by exact_mod_cast h
    simp [h, this]
  · have : ¬ (p : ℝ) < q := by exact_mod_cast h
    simp [h, this]

/-! ## Waveform functions -/

/-- A waveform expression applied to a number has the value of its real function there. -/
@[simp] theorem val_apply (lit : Literals) (x : Exact) (w : WaveFn) :
    (w.apply lit x).val d = w.real lit d (x.val d) := by
  induction w <;> simp_all [WaveFn.apply, WaveFn.real]

/-- The parameter WAVE may be any functions of the phase: whatever real functions `f k` are given, some valuation makes the
outside function number `k` of the phase the function `f k` (log 14). -/
theorem outside_any (f : Nat → ℝ → ℝ) : ∃ d : Valuation, ∀ (lit : Literals) (k : Nat) (x : ℝ),
    (WaveFn.outside k .phase).real lit d x = f k x :=
  ⟨{ value := fun _ => 0, lower := fun _ => by norm_num, upper := fun _ => by norm_num, outside := f }, fun _ _ _ => rfl⟩

/-! ## Terms that change nothing -/

/-- Adding the rational 0 on the right gives the expression back. -/
@[simp] theorem add_zero_rat (x : Exact) : x.add (.rat 0) = x := by
  cases x <;> simp [Exact.add, Exact.asRat]

/-- A number times the rational 0 is the rational 0. -/
@[simp] theorem scale_zero (x : Exact) : Exact.scale 0 x = .rat 0 := by
  cases x <;> simp [Exact.scale, Exact.mul, Exact.asRat]

end Sys2Proof
end

