-- ==== Sys2Proof/Laws/Words.lean ====
section
/-! SUPPORT. Fields of concatenated words, and the fields of the words the encoder builds. -/

namespace Sys2Proof

/-! ## Fields of a concatenation -/

theorem extract_append_upper {a b : Nat} (x : BitVec a) (y : BitVec b) (lo len : Nat) (h : b ≤ lo) :
    (x ++ y).extractLsb' lo len = x.extractLsb' (lo - b) len := by
  apply BitVec.eq_of_getLsbD_eq
  intro i hi
  have : ¬ lo + i < b := by omega
  simp [BitVec.getLsbD_append, hi, this, Nat.sub_add_comm h]

theorem extract_append_lower {a b : Nat} (x : BitVec a) (y : BitVec b) (lo len : Nat) (h : lo + len ≤ b) :
    (x ++ y).extractLsb' lo len = y.extractLsb' lo len := by
  apply BitVec.eq_of_getLsbD_eq
  intro i hi
  have : lo + i < b := by omega
  simp [BitVec.getLsbD_append, hi, this]

theorem extract_all {a : Nat} (x : BitVec a) : x.extractLsb' 0 a = x := by
  apply BitVec.eq_of_getLsbD_eq
  intro i hi
  simp [hi]

theorem extract_append_high {a b : Nat} (x : BitVec a) (y : BitVec b) : (x ++ y).extractLsb' b a = x := by
  rw [extract_append_upper x y b a le_rfl, Nat.sub_self, extract_all]

theorem extract_append_low {a b : Nat} (x : BitVec a) (y : BitVec b) : (x ++ y).extractLsb' 0 b = y := by
  rw [extract_append_lower x y 0 b (by omega), extract_all]

/-- The integer of an 8-bit signed field that holds `n`. -/
theorem toInt_ofInt_byte {n : Int} (h : byteInField n = true) : (BitVec.ofInt 8 n).toInt = n := by
  simp only [byteInField, inRange, Bool.and_eq_true, decide_eq_true_eq] at h
  rw [BitVec.toInt_ofInt, Int.bmod]
  omega

/-- The integer of the 4-bit signed channel field that holds `ch`. -/
theorem toInt_ofInt_ch {ch : Int} (h : chInField ch = true) : (BitVec.ofInt 4 ch).toInt = ch := by
  simp only [chInField, inRange, Bool.and_eq_true, decide_eq_true_eq] at h
  rw [BitVec.toInt_ofInt, Int.bmod]
  omega

/-! ## Fields of an SFX word -/

section Sfx
variable (n ch : Int) (low : BitVec 16)

theorem sfxWord_op : (sfxWord n ch low).extractLsb' 28 4 = 0x1#4 :=
  (extract_append_upper (0x1#4 ++ BitVec.ofInt 8 n ++ BitVec.ofInt 4 ch) low 28 4 (by omega)).trans
    ((extract_append_upper (0x1#4 ++ BitVec.ofInt 8 n) (BitVec.ofInt 4 ch) 12 4 (by omega)).trans
      (extract_append_high (0x1#4) (BitVec.ofInt 8 n)))

theorem sfxWord_n : (sfxWord n ch low).extractLsb' 20 8 = BitVec.ofInt 8 n :=
  (extract_append_upper (0x1#4 ++ BitVec.ofInt 8 n ++ BitVec.ofInt 4 ch) low 20 8 (by omega)).trans
    ((extract_append_upper (0x1#4 ++ BitVec.ofInt 8 n) (BitVec.ofInt 4 ch) 4 8 (by omega)).trans
      (extract_append_low (0x1#4) (BitVec.ofInt 8 n)))

theorem sfxWord_ch : (sfxWord n ch low).extractLsb' 16 4 = BitVec.ofInt 4 ch :=
  (extract_append_upper (0x1#4 ++ BitVec.ofInt 8 n ++ BitVec.ofInt 4 ch) low 16 4 (by omega)).trans
    (extract_append_low (0x1#4 ++ BitVec.ofInt 8 n) (BitVec.ofInt 4 ch))

theorem sfxWord_low : (sfxWord n ch low).extractLsb' 0 16 = low :=
  extract_append_low (0x1#4 ++ BitVec.ofInt 8 n ++ BitVec.ofInt 4 ch) low

theorem sfxWord_off (off len : BitVec 8) : (sfxWord n ch (off ++ len)).extractLsb' 8 8 = off :=
  (extract_append_lower (0x1#4 ++ BitVec.ofInt 8 n ++ BitVec.ofInt 4 ch) (off ++ len) 8 8 (by omega)).trans
    (extract_append_high off len)

theorem sfxWord_len (off len : BitVec 8) : (sfxWord n ch (off ++ len)).extractLsb' 0 8 = len :=
  (extract_append_lower (0x1#4 ++ BitVec.ofInt 8 n ++ BitVec.ofInt 4 ch) (off ++ len) 0 8 (by omega)).trans
    (extract_append_low off len)

end Sfx

/-! ## Words of an 8-bit operand above 20 ignored bits, and of a bare opcode -/

section Plain
variable (op : BitVec 4) (n : BitVec 8) (low : BitVec 20) (rest : BitVec 28)

theorem operandWord_op : (op ++ n ++ low : Word).extractLsb' 28 4 = op :=
  (extract_append_upper (op ++ n) low 28 4 (by omega)).trans (extract_append_high op n)

theorem operandWord_n : (op ++ n ++ low : Word).extractLsb' 20 8 = n :=
  (extract_append_upper (op ++ n) low 20 8 (by omega)).trans (extract_append_low op n)

theorem operandWord_low : (op ++ n ++ low : Word).extractLsb' 0 20 = low := extract_append_low (op ++ n) low

theorem bareWord_op : (op ++ rest : Word).extractLsb' 28 4 = op := extract_append_high op rest

theorem bareWord_rest : (op ++ rest : Word).extractLsb' 0 28 = rest := extract_append_low op rest

theorem reserved47_op (x : BitVec 2) : (0b01#2 ++ x ++ rest : Word).extractLsb' 28 4 = 0b01#2 ++ x :=
  extract_append_high (0b01#2 ++ x) rest

theorem reserved47_x (x : BitVec 2) : (0b01#2 ++ x ++ rest : Word).extractLsb' 28 2 = x :=
  (extract_append_upper (0b01#2 ++ x) rest 28 2 (by omega)).trans (extract_append_low (0b01#2) x)

theorem reserved47_rest (x : BitVec 2) : (0b01#2 ++ x ++ rest : Word).extractLsb' 0 28 = rest :=
  extract_append_low (0b01#2 ++ x) rest

theorem reserved8F_op (x : BitVec 3) : (0b1#1 ++ x ++ rest : Word).extractLsb' 28 4 = 0b1#1 ++ x :=
  extract_append_high (0b1#1 ++ x) rest

theorem reserved8F_x (x : BitVec 3) : (0b1#1 ++ x ++ rest : Word).extractLsb' 28 3 = x :=
  (extract_append_upper (0b1#1 ++ x) rest 28 3 (by omega)).trans (extract_append_low (0b1#1) x)

theorem reserved8F_rest (x : BitVec 3) : (0b1#1 ++ x ++ rest : Word).extractLsb' 0 28 = rest :=
  extract_append_low (0b1#1 ++ x) rest

end Plain

/-! ## Selector indices -/

@[simp] theorem waveformOf_bits (w : Waveform) : waveformOf (waveformBits w) = w := by cases w <;> rfl
@[simp] theorem effectOf_bits (e : Effect) : effectOf (effectBits e) = e := by cases e <;> rfl
@[simp] theorem waveformBits_of : ∀ i : BitVec 3, waveformBits (waveformOf i) = i := by decide
@[simp] theorem effectBits_of : ∀ i : BitVec 3, effectBits (effectOf i) = i := by decide

/-! ## Fields of a note word -/

section Note
variable (e : Effect) (f : NoteFields)

theorem noteWord_pitch : (noteWord e f).extractLsb' 0 6 = BitVec.ofNat 6 f.pitch.val :=
  extract_append_low (BitVec.ofBool f.custom ++ effectBits e ++ BitVec.ofNat 3 f.volume.val ++ waveformBits f.wave)
    (BitVec.ofNat 6 f.pitch.val)

theorem noteWord_wave : (noteWord e f).extractLsb' 6 3 = waveformBits f.wave :=
  (extract_append_upper (BitVec.ofBool f.custom ++ effectBits e ++ BitVec.ofNat 3 f.volume.val ++ waveformBits f.wave)
    (BitVec.ofNat 6 f.pitch.val) 6 3 (by omega)).trans
    (extract_append_low (BitVec.ofBool f.custom ++ effectBits e ++ BitVec.ofNat 3 f.volume.val) (waveformBits f.wave))

theorem noteWord_volume : (noteWord e f).extractLsb' 9 3 = BitVec.ofNat 3 f.volume.val :=
  (extract_append_upper (BitVec.ofBool f.custom ++ effectBits e ++ BitVec.ofNat 3 f.volume.val ++ waveformBits f.wave)
    (BitVec.ofNat 6 f.pitch.val) 9 3 (by omega)).trans
    ((extract_append_upper (BitVec.ofBool f.custom ++ effectBits e ++ BitVec.ofNat 3 f.volume.val) (waveformBits f.wave) 3 3
      (by omega)).trans
      (extract_append_low (BitVec.ofBool f.custom ++ effectBits e) (BitVec.ofNat 3 f.volume.val)))

theorem noteWord_effect : (noteWord e f).extractLsb' 12 3 = effectBits e :=
  (extract_append_upper (BitVec.ofBool f.custom ++ effectBits e ++ BitVec.ofNat 3 f.volume.val ++ waveformBits f.wave)
    (BitVec.ofNat 6 f.pitch.val) 12 3 (by omega)).trans
    ((extract_append_upper (BitVec.ofBool f.custom ++ effectBits e ++ BitVec.ofNat 3 f.volume.val) (waveformBits f.wave) 6 3
      (by omega)).trans
      ((extract_append_upper (BitVec.ofBool f.custom ++ effectBits e) (BitVec.ofNat 3 f.volume.val) 3 3 (by omega)).trans
        (extract_append_low (BitVec.ofBool f.custom) (effectBits e))))

theorem noteWord_custom : (noteWord e f).getLsbD 15 = f.custom := by
  unfold noteWord
  iterate 4 rw [BitVec.getLsbD_append, if_neg (by decide)]
  cases f.custom <;> rfl

/-- Decoding the word of a note gives the note back. -/
theorem decodeNote_noteWord : decodeNote (noteWord e f) = { effect := e, fields := f } := by
  have hp : ((noteWord e f).extractLsb' 0 6).toFin = f.pitch := by
    rw [noteWord_pitch]
    exact Fin.ext (Nat.mod_eq_of_lt f.pitch.isLt)
  have hv : ((noteWord e f).extractLsb' 9 3).toFin = f.volume := by
    rw [noteWord_volume]
    exact Fin.ext (Nat.mod_eq_of_lt f.volume.isLt)
  simp only [decodeNote, noteWord_effect, noteWord_wave, effectOf_bits, waveformOf_bits, noteWord_custom, hp, hv]

end Note

/-- The waveform and custom bit of the word of a waveform selector. -/
theorem decodeNoteWave_waveWord (w : Waveform) (c : Bool) : decodeNoteWave (waveWord w c) = waveInstr w c := by
  cases w <;> cases c <;> rfl

end Sys2Proof
end

