-- ==== Sys2Proof/Laws/PerInstr.lean ====
section
/-! SUPPORT. What holds of every instruction as syntax, one lemma for each constructor of Instr. -/

namespace Sys2Proof.Laws.RoundTrip

open Sys2Proof

/-- Decoding the word of a well-formed instruction gives the instruction back. -/
def Statement (i : Instr) : Prop := i.wf = true → decode (encode i) = i

theorem nop (ignored : BitVec 28) : Statement (.nop ignored) := by
  intro _
  simp only [encode, decode, decodeCommand, bareWord_op, bareWord_rest, if_true]

theorem sfxStop (ch : Int) (ignored : BitVec 16) : Statement (.sfxStop ch ignored) := by
  intro h
  simp only [encode, decode, decodeCommand, decodeSfx, sfxWord_op, sfxWord_n, sfxWord_ch, sfxWord_low, toInt_ofInt_ch h]
  rfl

theorem sfxRelease (ch : Int) (ignored : BitVec 16) : Statement (.sfxRelease ch ignored) := by
  intro h
  simp only [encode, decode, decodeCommand, decodeSfx, sfxWord_op, sfxWord_n, sfxWord_ch, sfxWord_low, toInt_ofInt_ch h]
  rfl

theorem sfxPlay (n ch off len : Int) : Statement (.sfxPlay n ch off len) := by
  intro h
  simp only [Instr.wf, Bool.and_eq_true] at h
  obtain ⟨⟨⟨hn, hc⟩, ho⟩, hl⟩ := h
  have hn' : 0 ≤ n ∧ n ≤ 127 := by simpa [inRange] using hn
  have hb : byteInField n = true := by simp [byteInField, inRange]; omega
  simp only [encode, decode, decodeCommand, decodeSfx, sfxWord_op, sfxWord_n, sfxWord_ch, sfxWord_off, sfxWord_len,
    toInt_ofInt_byte hb, toInt_ofInt_ch hc, toInt_ofInt_byte ho, toInt_ofInt_byte hl]
  rw [if_neg (by decide), if_pos trivial, if_neg (by omega), if_neg (by omega), if_pos hn'.1]

theorem sfxReserved (n : Int) (ignored : BitVec 20) : Statement (.sfxReserved n ignored) := by
  intro h
  have hn : -128 ≤ n ∧ n ≤ -3 := by simpa [Instr.wf, inRange] using h
  have hb : byteInField n = true := by simp [byteInField, inRange]; omega
  simp only [encode, decode, decodeCommand, decodeSfx, operandWord_op, operandWord_n, operandWord_low, toInt_ofInt_byte hb]
  rw [if_neg (by decide), if_pos trivial, if_neg (by omega), if_neg (by omega), if_neg (by omega)]

theorem music (n : Int) (fadeMask : BitVec 20) : Statement (.music n fadeMask) := by
  intro h
  simp only [encode, decode, decodeCommand, operandWord_op, operandWord_n, operandWord_low, toInt_ofInt_byte h]
  rfl

theorem pull (ignored : BitVec 28) : Statement (.pull ignored) := by
  intro _
  simp only [encode, decode, decodeCommand, bareWord_op, bareWord_rest]
  rfl

theorem reservedOp47 (op : BitVec 2) (ignored : BitVec 28) : Statement (.reservedOp47 op ignored) := by
  intro _
  have h : ∀ x : BitVec 2, ¬ 0b01#2 ++ x = 0x0#4 ∧ ¬ 0b01#2 ++ x = 0x1#4 ∧ ¬ 0b01#2 ++ x = 0x2#4 ∧ ¬ 0b01#2 ++ x = 0x3#4 ∧
      (0b01#2 ++ x).toNat < 8 := by decide
  obtain ⟨h0, h1, h2, h3, h4⟩ := h op
  simp only [encode, decode, decodeCommand, reserved47_op, reserved47_x, reserved47_rest]
  rw [if_neg h0, if_neg h1, if_neg h2, if_neg h3, if_pos h4]

theorem reservedOp8F (op : BitVec 3) (ignored : BitVec 28) : Statement (.reservedOp8F op ignored) := by
  intro _
  have h : ∀ x : BitVec 3, ¬ 0b1#1 ++ x = 0x0#4 ∧ ¬ 0b1#1 ++ x = 0x1#4 ∧ ¬ 0b1#1 ++ x = 0x2#4 ∧ ¬ 0b1#1 ++ x = 0x3#4 ∧
      ¬ (0b1#1 ++ x).toNat < 8 := by decide
  obtain ⟨h0, h1, h2, h3, h4⟩ := h op
  simp only [encode, decode, decodeCommand, reserved8F_op, reserved8F_x, reserved8F_rest]
  rw [if_neg h0, if_neg h1, if_neg h2, if_neg h3, if_neg h4]

theorem fxNone (note : NoteFields) : Statement (.fxNone note) := by
  intro _
  simp only [encode, decode, decodeNoteEffect, decodeNote_noteWord, effectInstr]

theorem fxSlide (note : NoteFields) : Statement (.fxSlide note) := by
  intro _
  simp only [encode, decode, decodeNoteEffect, decodeNote_noteWord, effectInstr]

theorem fxVibrato (note : NoteFields) : Statement (.fxVibrato note) := by
  intro _
  simp only [encode, decode, decodeNoteEffect, decodeNote_noteWord, effectInstr]

theorem fxDrop (note : NoteFields) : Statement (.fxDrop note) := by
  intro _
  simp only [encode, decode, decodeNoteEffect, decodeNote_noteWord, effectInstr]

theorem fxFadeIn (note : NoteFields) : Statement (.fxFadeIn note) := by
  intro _
  simp only [encode, decode, decodeNoteEffect, decodeNote_noteWord, effectInstr]

theorem fxFadeOut (note : NoteFields) : Statement (.fxFadeOut note) := by
  intro _
  simp only [encode, decode, decodeNoteEffect, decodeNote_noteWord, effectInstr]

theorem fxArpFast (note : NoteFields) : Statement (.fxArpFast note) := by
  intro _
  simp only [encode, decode, decodeNoteEffect, decodeNote_noteWord, effectInstr]

theorem fxArpSlow (note : NoteFields) : Statement (.fxArpSlow note) := by
  intro _
  simp only [encode, decode, decodeNoteEffect, decodeNote_noteWord, effectInstr]

theorem waveTri (custom : Bool) : Statement (.waveTri custom) := by
  intro _
  simp only [encode, decode, decodeNoteWave_waveWord, waveInstr]

theorem waveTilt (custom : Bool) : Statement (.waveTilt custom) := by
  intro _
  simp only [encode, decode, decodeNoteWave_waveWord, waveInstr]

theorem waveSaw (custom : Bool) : Statement (.waveSaw custom) := by
  intro _
  simp only [encode, decode, decodeNoteWave_waveWord, waveInstr]

theorem waveSquare (custom : Bool) : Statement (.waveSquare custom) := by
  intro _
  simp only [encode, decode, decodeNoteWave_waveWord, waveInstr]

theorem wavePulse (custom : Bool) : Statement (.wavePulse custom) := by
  intro _
  simp only [encode, decode, decodeNoteWave_waveWord, waveInstr]

theorem waveOrgan (custom : Bool) : Statement (.waveOrgan custom) := by
  intro _
  simp only [encode, decode, decodeNoteWave_waveWord, waveInstr]

theorem waveNoise (custom : Bool) : Statement (.waveNoise custom) := by
  intro _
  simp only [encode, decode, decodeNoteWave_waveWord, waveInstr]

theorem wavePhaser (custom : Bool) : Statement (.wavePhaser custom) := by
  intro _
  simp only [encode, decode, decodeNoteWave_waveWord, waveInstr]

end Sys2Proof.Laws.RoundTrip
end

