-- ==== Sys2Proof/Laws/Render.lean ====
section
/-! SUPPORT. What one run of the process operation can do: how many samples it consumes, and what it leaves alone. -/

namespace Sys2Proof.Machine

/-- A task is complete exactly when it has consumed its N(speed) samples. -/
theorem complete_iff (t : RenderTask) (cfg : Cfg) : t.complete cfg = true ↔ taskSamples cfg t.speed ≤ t.n := by
  have hd : 0 < (cfg.lit.speedDiv : Nat) := cfg.lit.speedDiv.pos
  rw [RenderTask.complete, decide_eq_true_eq, taskSamples, Nat.div_le_iff_le_mul_add_pred hd,
    Nat.mul_comm t.n]
  omega

/-- A task of speed 0 needs no sample. -/
theorem taskSamples_zero (cfg : Cfg) (speed : Fin 256) (h : speed.val = 0) : taskSamples cfg speed = 0 := by
  have hd : 0 < (cfg.lit.speedDiv : Nat) := cfg.lit.speedDiv.pos
  rw [taskSamples, h, Nat.zero_mul, Nat.zero_add]
  exact Nat.div_eq_of_lt (by omega)

/-- A task of speed at least 1 needs at least one sample. -/
theorem taskSamples_pos (cfg : Cfg) (speed : Fin 256) (hs : 1 ≤ speed.val) (hr : 1 ≤ cfg.rate) : 1 ≤ taskSamples cfg speed := by
  have hd : 0 < (cfg.lit.speedDiv : Nat) := cfg.lit.speedDiv.pos
  have : 1 ≤ speed.val * cfg.rate := Nat.mul_pos hs hr
  exact (Nat.one_le_div_iff hd).mpr (by omega)

@[simp] theorem tick_n (t : RenderTask) : t.tick.n = t.n + 1 := rfl
@[simp] theorem tick_speed (t : RenderTask) : t.tick.speed = t.speed := rfl
@[simp] theorem tick_wave (t : RenderTask) : t.tick.wave = t.wave := rfl

section RenderFrom
variable (cfg : Cfg) (active : Bool)

/-- The buffer keeps its length. -/
@[simp] theorem renderFrom_length (mix : List Exact) (task : RenderTask) (o : OscState) (d : Nat) :
    (renderFrom cfg active mix task o d).mix.length = mix.length := by
  induction mix generalizing task o d with
  | nil => rfl
  | cons m rest ih =>
    unfold renderFrom
    split
    · rfl
    · simp [ih]

/-- A run consumes the samples the task still needs, or all that are left. -/
theorem renderFrom_used (mix : List Exact) (task : RenderTask) (o : OscState) (d : Nat) :
    (renderFrom cfg active mix task o d).used = min mix.length (taskSamples cfg task.speed - task.n) := by
  induction mix generalizing task o d with
  | nil => simp [renderFrom]
  | cons m rest ih =>
    unfold renderFrom
    by_cases h : task.complete cfg = true
    · have := (complete_iff task cfg).mp h
      simp [h]
      omega
    · have h' : ¬ taskSamples cfg task.speed ≤ task.n := fun h2 => h ((complete_iff task cfg).mpr h2)
      simp only [h, ih, tick_speed, tick_n, List.length_cons]
      simp
      omega

/-- The task after a run is the task with the consumed samples counted. -/
theorem renderFrom_task (mix : List Exact) (task : RenderTask) (o : OscState) (d : Nat) :
    (renderFrom cfg active mix task o d).task = { task with n := task.n + (renderFrom cfg active mix task o d).used } := by
  induction mix generalizing task o d with
  | nil => rfl
  | cons m rest ih =>
    unfold renderFrom
    split
    · rfl
    · simp only [ih, RenderTask.tick]
      congr 1
      omega

/-- A run writes no sample after those it consumes. -/
theorem renderFrom_drop (mix : List Exact) (task : RenderTask) (o : OscState) (d : Nat) :
    (renderFrom cfg active mix task o d).mix.drop (renderFrom cfg active mix task o d).used =
      mix.drop (renderFrom cfg active mix task o d).used := by
  induction mix generalizing task o d with
  | nil => rfl
  | cons m rest ih =>
    unfold renderFrom
    split
    · rfl
    · simp [ih]

/-- What holds of the oscillator and every rendered sample of an incomplete task holds of the oscillator after a run. -/
theorem renderFrom_osc (P : OscState → Prop)
    (hstep : ∀ (task : RenderTask) (o : OscState) (d : Nat) (m : Exact), task.complete cfg = false → P o →
      P (renderSample (oscStep task.wave) cfg active task o d m).osc)
    (mix : List Exact) (task : RenderTask) (o : OscState) (d : Nat) (h : P o) :
    P (renderFrom cfg active mix task o d).osc := by
  induction mix generalizing task o d with
  | nil => exact h
  | cons m rest ih =>
    unfold renderFrom
    split
    · exact h
    · rename_i hc
      exact ih _ _ _ (hstep task o d m (by simpa using hc) h)

end RenderFrom

section ProcessTask
variable (cfg : Cfg) (active : Bool) (cursor : Nat) (mix : List Exact) (task : RenderTask) (o : OscState) (d : Nat)

@[simp] theorem processTask_length : (processTask cfg active cursor mix task o d).mix.length = mix.length := by
  simp only [processTask, List.length_append, List.length_take, renderFrom_length, List.length_drop]
  omega

theorem processTask_used :
    (processTask cfg active cursor mix task o d).used = min (mix.length - cursor) (taskSamples cfg task.speed - task.n) := by
  simp [processTask, renderFrom_used]

theorem processTask_task :
    (processTask cfg active cursor mix task o d).task =
      { task with n := task.n + (processTask cfg active cursor mix task o d).used } :=
  renderFrom_task cfg active (mix.drop cursor) task o d

end ProcessTask

end Sys2Proof.Machine
end

