-- ==== Sys2Proof/Laws/Update.lean ====
section
/-! SUPPORT. What update() of a voice can do: one induction over its loop, and the lemmas of its passes. -/

namespace Sys2Proof.Machine

/-! ## Scheduling -/

/-- A fade literal is at least 0. -/
theorem toRat_nonneg (q : NonnegRat) : 0 ≤ q.toRat :=
  Rat.div_nonneg (by exact_mod_cast Nat.zero_le _) (by exact_mod_cast Nat.zero_le _)

/-- A duration is at least 0. -/
theorem noteTime_nonneg (lit : Literals) (v : Voice) : 0 ≤ v.noteTime lit :=
  Rat.div_nonneg (by exact_mod_cast Nat.zero_le _) (by exact_mod_cast Nat.zero_le _)

/-- What every effect's rule has in common: a task is queued, the pitch recorded and the step advanced. -/
theorem scheduleNote_is (lit : Literals) (v : Voice) (k : Fin 32) (p : PackedNote) :
    ∃ pol pend, v.scheduleNote lit k p = v.scheduleAs k p.fields pol pend ∧ (pend = none ∨ pend = v.fadeOutPending lit) ∧
      0 ≤ pol.fadeIn ∧ 0 ≤ pol.fadeOut := by
  have hD : ∀ q : NonnegRat, 0 ≤ q.toRat * v.noteTime lit := fun q =>
    Rat.mul_nonneg (toRat_nonneg q) (noteTime_nonneg lit v)
  unfold Voice.scheduleNote
  cases p.effect
  · exact ⟨_, _, rfl, .inl rfl, hD _, le_rfl⟩
  · exact ⟨_, _, rfl, .inl rfl, le_rfl, le_rfl⟩
  · exact ⟨_, _, rfl, .inl rfl, le_rfl, le_rfl⟩
  · exact ⟨_, _, rfl, .inl rfl, le_rfl, le_rfl⟩
  · exact ⟨_, _, rfl, .inl rfl, hD _, hD _⟩
  · exact ⟨_, _, rfl, .inr rfl, le_rfl, hD _⟩
  · exact ⟨_, _, rfl, .inl rfl, hD _, le_rfl⟩
  · exact ⟨_, _, rfl, .inl rfl, hD _, le_rfl⟩

section Schedule
variable (lit : Literals) (v : Voice) (k : Fin 32)

@[simp] theorem schedule_instrIdx : (v.schedule lit k).instrIdx = v.instrIdx := by
  obtain ⟨_, _, h, _⟩ := scheduleNote_is lit v k v.instr.notes[k]
  rw [Voice.schedule, h]; simp
@[simp] theorem schedule_instr : (v.schedule lit k).instr = v.instr := by
  obtain ⟨_, _, h, _⟩ := scheduleNote_is lit v k v.instr.notes[k]
  rw [Voice.schedule, h]; simp
@[simp] theorem schedule_step : (v.schedule lit k).step = v.stepAfter k := by
  obtain ⟨_, _, h, _⟩ := scheduleNote_is lit v k v.instr.notes[k]
  rw [Voice.schedule, h]; simp
@[simp] theorem schedule_lastStep : (v.schedule lit k).lastStep = v.lastStep := by
  obtain ⟨_, _, h, _⟩ := scheduleNote_is lit v k v.instr.notes[k]
  rw [Voice.schedule, h]; simp
@[simp] theorem schedule_alive : (v.schedule lit k).alive = v.alive := by
  obtain ⟨_, _, h, _⟩ := scheduleNote_is lit v k v.instr.notes[k]
  rw [Voice.schedule, h]; simp
@[simp] theorem schedule_active : (v.schedule lit k).active = v.active := by
  obtain ⟨_, _, h, _⟩ := scheduleNote_is lit v k v.instr.notes[k]
  rw [Voice.schedule, h]; simp
@[simp] theorem schedule_loop : (v.schedule lit k).loop = v.loop := by
  obtain ⟨_, _, h, _⟩ := scheduleNote_is lit v k v.instr.notes[k]
  rw [Voice.schedule, h]; simp
@[simp] theorem schedule_cursor : (v.schedule lit k).cursor = v.cursor := by
  obtain ⟨_, _, h, _⟩ := scheduleNote_is lit v k v.instr.notes[k]
  rw [Voice.schedule, h]; simp
@[simp] theorem schedule_osc : (v.schedule lit k).osc = v.osc := by
  obtain ⟨_, _, h, _⟩ := scheduleNote_is lit v k v.instr.notes[k]
  rw [Voice.schedule, h]; simp
@[simp] theorem schedule_prevPitch : (v.schedule lit k).prevPitch = some v.instr.notes[k].fields.pitch := by
  obtain ⟨_, _, h, _⟩ := scheduleNote_is lit v k v.instr.notes[k]
  rw [Voice.schedule, h]; simp

/-- The queued task is new: no sample is consumed, and its speed is the instrument's. -/
theorem schedule_task : ∃ t, (v.schedule lit k).task = some t ∧ t.n = 0 ∧ t.speed = v.instr.speed := by
  obtain ⟨_, _, h, _⟩ := scheduleNote_is lit v k v.instr.notes[k]
  exact ⟨_, by rw [Voice.schedule, h]; rfl, rfl, rfl⟩

end Schedule

/-- A playable step is the voice's step, and not past its last one. -/
theorem playable_eq_some {v : Voice} {k : Fin 32} : v.playable = some k ↔ k.val = v.step.val ∧ v.step.val ≤ v.lastStep.val := by
  unfold Voice.playable
  split
  · rename_i h
    simp only [Option.some.injEq, Fin.ext_iff]
    constructor
    · intro e; exact ⟨e.symm, h⟩
    · intro e; exact e.1.symm
  · rename_i h
    simp only [reduceCtorEq, false_iff, not_and]
    intro _; exact h

theorem playable_eq_none {v : Voice} : v.playable = none ↔ v.lastStep.val < v.step.val := by
  unfold Voice.playable
  split <;> simp <;> omega

/-! ## One pass with a task -/

section RunTask
variable {v : Voice} {cfg : Cfg} {t : RenderTask} {mix : List Exact} {d : Nat} {v' : Voice} {mix' : List Exact} {d' : Nat}

/-- A pass that pops its task: the process stopped inside the buffer. -/
theorem runTask_true (h : v.runTask cfg t mix d = (true, v', mix', d')) :
    v.cursor + (processTask cfg v.active v.cursor mix t v.osc d).used < cfg.B ∧
      v' = { v with
        task := none
        cursor := v.cursor + (processTask cfg v.active v.cursor mix t v.osc d).used
        osc := (processTask cfg v.active v.cursor mix t v.osc d).osc } ∧
      mix' = (processTask cfg v.active v.cursor mix t v.osc d).mix ∧
      d' = (processTask cfg v.active v.cursor mix t v.osc d).draws := by
  by_cases hlt : v.cursor + (processTask cfg v.active v.cursor mix t v.osc d).used < cfg.B
  · simp only [Voice.runTask, if_pos hlt, Prod.mk.injEq, true_and] at h
    exact ⟨hlt, h.1.symm, h.2.1.symm, h.2.2.symm⟩
  · simp [Voice.runTask, if_neg hlt] at h

/-- A pass that leaves its task queued: the process reached the buffer end. -/
theorem runTask_false (h : v.runTask cfg t mix d = (false, v', mix', d')) :
    cfg.B ≤ v.cursor + (processTask cfg v.active v.cursor mix t v.osc d).used ∧
      v' = { v with
        task := some (processTask cfg v.active v.cursor mix t v.osc d).task
        cursor := 0
        osc := (processTask cfg v.active v.cursor mix t v.osc d).osc } ∧
      mix' = (processTask cfg v.active v.cursor mix t v.osc d).mix ∧
      d' = (processTask cfg v.active v.cursor mix t v.osc d).draws := by
  by_cases hlt : v.cursor + (processTask cfg v.active v.cursor mix t v.osc d).used < cfg.B
  · simp [Voice.runTask, if_pos hlt] at h
  · simp only [Voice.runTask, if_neg hlt, Prod.mk.injEq, true_and] at h
    exact ⟨not_lt.mp hlt, h.1.symm, h.2.1.symm, h.2.2.symm⟩

/-- A pass that ends inside the buffer has popped its task, having consumed all the samples the task needed. -/
theorem runTask_popped (hl : mix.length = cfg.B) (h : v.runTask cfg t mix d = (true, v', mix', d')) :
    v'.task = none ∧ v'.cursor = v.cursor + (taskSamples cfg t.speed - t.n) ∧ v'.cursor < cfg.B ∧
      mix'.length = cfg.B := by
  obtain ⟨hlt, rfl, rfl, -⟩ := runTask_true h
  rw [processTask_used, hl] at hlt
  refine ⟨rfl, ?_, ?_, by rw [processTask_length, hl]⟩ <;> simp only [processTask_used, hl] <;> omega

/-- A pass that reaches the buffer end keeps its task queued, with the samples it consumed counted, and wraps the cursor. -/
theorem runTask_queued (hl : mix.length = cfg.B) (hc : v.cursor < cfg.B) (h : v.runTask cfg t mix d = (false, v', mix', d')) :
    v'.cursor = 0 ∧ v'.task = some { t with n := t.n + (cfg.B - v.cursor) } ∧
      cfg.B ≤ v.cursor + (taskSamples cfg t.speed - t.n) ∧ mix'.length = cfg.B := by
  obtain ⟨hge, rfl, rfl, -⟩ := runTask_false h
  rw [processTask_used, hl] at hge
  refine ⟨rfl, ?_, by omega, by rw [processTask_length, hl]⟩
  simp only [processTask_task, processTask_used, hl]
  congr 2
  congr 1
  omega

end RunTask

/-! ## The loop -/

/-- How an update that ends can end, for a property `P` that its passes keep: at the buffer end with the last task queued;
or with the voice exhausted and no task queued. (The third case of update(), a cursor at the buffer end before the loop,
is excluded by the cursor's range.) -/
theorem updateLoop_ends (cfg : Cfg) (P : Voice → List Exact → Nat → Prop)
    (hsched : ∀ v mix d k, P v mix d → v.cursor < cfg.B → v.task = none → v.playable = some k → P (v.schedule cfg.lit k) mix d)
    (hpop : ∀ v mix d t v' mix' d', P v mix d → v.cursor < cfg.B → v.task = some t →
      v.runTask cfg t mix d = (true, v', mix', d') → P v' mix' d')
    (fuel : Nat) (v : Voice) (mix : List Exact) (d : Nat) (hP : P v mix d) (hc : v.cursor < cfg.B) :
    match updateLoop cfg fuel v mix d with
    | .alive v' mix' d' => ∃ v0 mix0 d0 t, P v0 mix0 d0 ∧ v0.cursor < cfg.B ∧ v0.task = some t ∧
        v0.runTask cfg t mix0 d0 = (false, v', mix', d')
    | .died v' mix' d' => ∃ v0, P v0 mix' d' ∧ v0.cursor < cfg.B ∧ v0.task = none ∧ v0.playable = none ∧ v' = v0.die
    | .endless => True := by
  induction fuel generalizing v mix d with
  | zero => exact trivial
  | succ fuel ih =>
    unfold updateLoop
    rw [if_pos hc]
    rcases ht : v.task with _ | t
    · rcases hk : v.playable with _ | k
      · exact ⟨v, hP, hc, ht, hk, rfl⟩
      · exact ih _ _ _ (hsched v mix d k hP hc ht hk) (by simpa using hc)
    · rcases hr : v.runTask cfg t mix d with ⟨b, v', mix', d'⟩
      cases b
      · simp only [hr]
        exact ⟨v, mix, d, t, hP, hc, ht, hr⟩
      · simp only [hr]
        have hc' : v'.cursor < cfg.B := by
          obtain ⟨hlt, rfl, -⟩ := runTask_true hr
          exact hlt
        exact ih _ _ _ (hpop v mix d t v' mix' d' hP hc ht hr) hc'

/-- An update that is not endless is its loop. -/
theorem updateVoice_of_not_endless {cfg : Cfg} {v : Voice} {mix : List Exact} {d : Nat} (h : v.endlessLoop = false) :
    updateVoice cfg v mix d = updateLoop cfg (updateFuel cfg) v mix d := by
  simp [updateVoice, h]

end Sys2Proof.Machine
end

