-- ==== Sys2Proof/Laws/Song.lean ====
section
/-! SUPPORT. What the update of a channel slot and the song tick can do, said once each, and the two inductions over them. -/

namespace Sys2Proof.Machine

/-! ## One slot -/

/-- The three ways the update of a slot ends well: an empty slot; a voice that lives on; a voice that dies and is detached. -/
theorem updateSlot_ok {s s' : State} {slot : SlotId} (h : s.updateSlot slot = .ok s') :
    (s.voice slot = none ∧ s' = s) ∨
    (∃ v v' mix d, s.voice slot = some v ∧ updateVoice s.cfg v s.mix s.draws = .alive v' mix d ∧
      s' = { s with mix := mix, draws := d }.setVoice slot (some v')) ∨
    (∃ v v' mix d, s.voice slot = some v ∧ updateVoice s.cfg v s.mix s.draws = .died v' mix d ∧
      s' = { s with mix := mix, draws := d, song := { s.song with ref := refAfterDeath s.song.ref slot v'.cursor } }.setVoice
        slot none) := by
  unfold State.updateSlot at h
  rcases hv : s.voice slot with _ | v
  · simp only [hv, Except.ok.injEq] at h
    exact .inl ⟨rfl, h.symm⟩
  · rcases hu : updateVoice s.cfg v s.mix s.draws with ⟨v', mix, d⟩ | ⟨v', mix, d⟩ | _
    · simp only [hv, hu, Except.ok.injEq] at h
      exact .inr (.inl ⟨v, v', mix, d, rfl, hu, h.symm⟩)
    · simp only [hv, hu, Except.ok.injEq] at h
      exact .inr (.inr ⟨v, v', mix, d, rfl, hu, h.symm⟩)
    · simp [hv, hu] at h

/-- The update of a slot fails only on a voice whose update does not end, and names the slot. -/
theorem updateSlot_error {s : State} {slot : SlotId} {r : StuckReason} (h : s.updateSlot slot = .error r) :
    r = .zeroDurationLoop slot ∧ ∃ v, s.voice slot = some v ∧ updateVoice s.cfg v s.mix s.draws = .endless := by
  unfold State.updateSlot at h
  rcases hv : s.voice slot with _ | v
  · simp [hv] at h
  · rcases hu : updateVoice s.cfg v s.mix s.draws with ⟨v', mix, d⟩ | ⟨v', mix, d⟩ | _
    · simp [hv, hu] at h
    · simp [hv, hu] at h
    · simp only [hv, hu, Except.error.injEq] at h
      exact ⟨h.symm, v, rfl, hu⟩

/-- What the update of a slot leaves as it was. -/
theorem updateSlot_frame {s s' : State} {slot : SlotId} (h : s.updateSlot slot = .ok s') :
    s'.cfg = s.cfg ∧ s'.out = s.out ∧ s'.fault = s.fault ∧ s'.stuck = s.stuck ∧ s'.tables = s.tables ∧
      s'.stream = s.stream ∧ s'.bench = s.bench ∧ s'.song.mode = s.song.mode ∧ s'.song.pat = s.song.pat ∧
      s'.song.cur = s.song.cur ∧ ∀ slot', slot' ≠ slot → s'.voice slot' = s.voice slot' := by
  have other : ∀ (t : State) (o : Option Voice) (slot' : SlotId), t.sfx = s.sfx → t.mus = s.mus → slot' ≠ slot →
      (t.setVoice slot o).voice slot' = s.voice slot' := by
    intro t o slot' h1 h2 hne
    rw [voice_setVoice_other t slot slot' o (Ne.symm hne)]
    cases slot' <;> simp [h1, h2]
  rcases updateSlot_ok h with ⟨-, rfl⟩ | ⟨v, v', mix, d, -, -, rfl⟩ | ⟨v, v', mix, d, -, -, rfl⟩
  · simp
  · refine ⟨?_, ?_, ?_, ?_, ?_, ?_, ?_, ?_, ?_, ?_, fun slot' hne => other _ _ _ rfl rfl hne⟩ <;> simp
  · refine ⟨?_, ?_, ?_, ?_, ?_, ?_, ?_, ?_, ?_, ?_, fun slot' hne => other _ _ _ rfl rfl hne⟩ <;> simp

/-! ## A list of slots -/

/-- What the update of every slot of a list keeps, the update of the list keeps. -/
theorem updateSlots_keeps (P : State → Prop) (slots : List SlotId)
    (hstep : ∀ s s' slot, slot ∈ slots → P s → s.updateSlot slot = .ok s' → P s')
    {s s' : State} (hP : P s) (h : s.updateSlots slots = .ok s') : P s' := by
  induction slots generalizing s with
  | nil =>
    simp only [State.updateSlots, Except.ok.injEq] at h
    exact h ▸ hP
  | cons slot rest ih =>
    unfold State.updateSlots at h
    rcases h1 : s.updateSlot slot with r | s1
    · simp [h1] at h
    · simp only [h1] at h
      exact ih (fun s s' sl hm => hstep s s' sl (List.mem_cons_of_mem _ hm)) (hstep s s1 slot List.mem_cons_self hP h1) h

/-- The update of a list fails only at a slot of the list whose voice's update does not end, in a state the updates before it
lead to. -/
theorem updateSlots_error (P : State → Prop) (slots : List SlotId)
    (hstep : ∀ s s' slot, slot ∈ slots → P s → s.updateSlot slot = .ok s' → P s')
    {s : State} {r : StuckReason} (hP : P s) (h : s.updateSlots slots = .error r) :
    ∃ slot s1 v, slot ∈ slots ∧ P s1 ∧ r = .zeroDurationLoop slot ∧ s1.voice slot = some v ∧
      updateVoice s1.cfg v s1.mix s1.draws = .endless := by
  induction slots generalizing s with
  | nil => simp [State.updateSlots] at h
  | cons slot rest ih =>
    unfold State.updateSlots at h
    rcases h1 : s.updateSlot slot with r' | s1
    · simp only [h1, Except.error.injEq] at h
      subst h
      obtain ⟨hr, v, hv, hu⟩ := updateSlot_error h1
      exact ⟨slot, s, v, List.mem_cons_self, hP, hr, hv, hu⟩
    · simp only [h1] at h
      obtain ⟨sl, s2, v, hm, hs⟩ := ih (fun s s' sl hm => hstep s s' sl (List.mem_cons_of_mem _ hm))
        (hstep s s1 slot List.mem_cons_self hP h1) h
      exact ⟨sl, s2, v, List.mem_cons_of_mem _ hm, hs⟩

/-! ## The song tick -/

@[simp] theorem moveTo_cfg (s : State) (p : Fin 64) : (s.moveTo p).cfg = s.cfg := rfl
@[simp] theorem moveTo_mix (s : State) (p : Fin 64) : (s.moveTo p).mix = s.mix := rfl
@[simp] theorem moveTo_out (s : State) (p : Fin 64) : (s.moveTo p).out = s.out := rfl
@[simp] theorem moveTo_sfx (s : State) (p : Fin 64) : (s.moveTo p).sfx = s.sfx := rfl
@[simp] theorem moveTo_tables (s : State) (p : Fin 64) : (s.moveTo p).tables = s.tables := rfl
@[simp] theorem moveTo_fault (s : State) (p : Fin 64) : (s.moveTo p).fault = s.fault := rfl
@[simp] theorem moveTo_stuck (s : State) (p : Fin 64) : (s.moveTo p).stuck = s.stuck := rfl
@[simp] theorem moveTo_stream (s : State) (p : Fin 64) : (s.moveTo p).stream = s.stream := rfl
@[simp] theorem moveTo_draws (s : State) (p : Fin 64) : (s.moveTo p).draws = s.draws := rfl
@[simp] theorem moveTo_bench (s : State) (p : Fin 64) : (s.moveTo p).bench = s.bench := rfl
@[simp] theorem moveTo_mode (s : State) (p : Fin 64) : (s.moveTo p).song.mode = s.song.mode := rfl
@[simp] theorem moveTo_pat (s : State) (p : Fin 64) : (s.moveTo p).song.pat = p := rfl
theorem moveTo_mus (s : State) (p : Fin 64) :
    (s.moveTo p).mus = Vector.ofFn fun k => s.patternVoice (s.decodePattern p) s.carriedCursor k := rfl
theorem moveTo_song (s : State) (p : Fin 64) :
    (s.moveTo p).song = { s.song with pat := p, cur := s.decodePattern p, ref := selectRef (s.moveTo p).mus } := rfl

/-- What the updates of the music slots, the stop and the transitions keep, the song tick keeps. -/
theorem songTick_keeps (P : State → Prop)
    (hslot : ∀ s s' slot, slot ∈ musSlots → P s → s.updateSlot slot = .ok s' → P s')
    (hstop : ∀ s c, P s → s.song.ref = .dead c → P s.enterStopped)
    (hmove : ∀ s c p, P s → s.song.ref = .dead c → s.nextPattern = some p → P (s.moveTo p))
    {fuel : Nat} {seen : List (Fin 64 × Nat)} {s s' : State} (hP : P s) (h : songTick fuel seen s = .ok s') : P s' := by
  induction fuel generalizing seen s with
  | zero => simp [songTick] at h
  | succ fuel ih =>
    unfold songTick at h
    rcases hm : s.song.mode with _ | _
    · simp only [hm, Except.ok.injEq] at h
      exact h ▸ hP
    · rcases hu : s.updateSlots musSlots with r | s1
      · simp [hm, hu] at h
      · have hP1 : P s1 := updateSlots_keeps P musSlots hslot hP hu
        rcases hr : s1.song.ref with _ | k | c
        · simp only [hm, hu, hr, Except.ok.injEq] at h
          exact h ▸ hP1
        · simp only [hm, hu, hr, Except.ok.injEq] at h
          exact h ▸ hP1
        · rcases hn : s1.nextPattern with _ | p
          · simp only [hm, hu, hr, hn, Except.ok.injEq] at h
            exact h ▸ hstop s1 c hP1 hr
          · simp only [hm, hu, hr, hn] at h
            split at h
            · simp at h
            · exact ih (hmove s1 c p hP1 hr hn) h

/-- A song tick while the FSM is stopped changes nothing. -/
theorem songTick_stopped {fuel : Nat} {seen : List (Fin 64 × Nat)} {s : State} (h : s.song.mode = .stopped) :
    songTick (fuel + 1) seen s = .ok s := by
  simp [songTick, h]

end Sys2Proof.Machine
end

