-- ==== Sys2Proof/Laws/Step.lean ====
section
/-! SUPPORT. What one step can do: the cases of the input it takes, and of a PULL. -/

namespace Sys2Proof.Machine

/-- The ways a step gives a next state: idle; a reset; a table write; a voice selected; an instruction run by a block that
is not halted. -/
theorem step_next {s s' : State} (h : step s = .next s') :
    (s.stream = [] ∧ s' = s) ∨
    (∃ c rest, s.stream = .reset c :: rest ∧ s' = { s with stream := rest }.applyReset c) ∨
    (∃ a b rest, s.stream = .tableWrite a b :: rest ∧ s' = { s with stream := rest }.writeTable a b) ∨
    (∃ slot rest, s.stream = .selectVoice slot :: rest ∧ s.halted = none ∧ s' = { s with stream := rest }.selectVoice slot) ∨
    (∃ w rest, s.stream = .issue w :: rest ∧ s.halted = none ∧ exec (decode w) { s with stream := rest } = .next s') := by
  unfold step State.pending at h
  rcases hs : s.stream with _ | ⟨i, rest⟩
  · simp only [hs, Host.Outcome.next.injEq] at h
    exact .inl ⟨rfl, h.symm⟩
  · rcases i with w | slot | ⟨a, b⟩ | c
    · rcases hh : s.halted with _ | f
      · simp only [hs, hh] at h
        exact .inr (.inr (.inr (.inr ⟨w, rest, rfl, rfl, h⟩)))
      · simp [hs, hh] at h
    · rcases hh : s.halted with _ | f
      · simp only [hs, hh, Host.Outcome.next.injEq] at h
        exact .inr (.inr (.inr (.inl ⟨slot, rest, rfl, rfl, h.symm⟩)))
      · simp [hs, hh] at h
    · simp only [hs, Host.Outcome.next.injEq] at h
      exact .inr (.inr (.inl ⟨a, b, rest, rfl, h.symm⟩))
    · simp only [hs, Host.Outcome.next.injEq] at h
      exact .inr (.inl ⟨c, rest, rfl, h.symm⟩)

/-- A block that is not halted has neither a fault nor a stuck PULL. -/
theorem halted_none {s : State} : s.halted = none ↔ s.fault = none ∧ s.stuck = none := by
  unfold State.halted
  rcases s.fault with _ | f <;> rcases s.stuck with _ | r <;> simp

/-- The two ways a PULL ends: a whole buffer is published, or the block is stuck. -/
theorem execPull_cases (ignored : BitVec 28) (s : State) :
    (∃ t, s.zeroMix.renderVoices = .ok t ∧ execPull ignored s = .next t.publish) ∨
    (∃ r, s.zeroMix.renderVoices = .error r ∧ execPull ignored s = .next (s.getStuck r)) := by
  unfold execPull
  rcases s.zeroMix.renderVoices with r | t
  · exact .inr ⟨r, rfl, rfl⟩
  · exact .inl ⟨t, rfl, rfl⟩

/-- What the updates of all slots, the stop and the transitions keep, the rendering of a PULL keeps. -/
theorem renderVoices_keeps (P : State → Prop)
    (hslot : ∀ s s' slot, P s → s.updateSlot slot = .ok s' → P s')
    (hstop : ∀ s c, P s → s.song.ref = .dead c → P s.enterStopped)
    (hmove : ∀ s c p, P s → s.song.ref = .dead c → s.nextPattern = some p → P (s.moveTo p))
    {s t : State} (hP : P s) (h : s.renderVoices = .ok t) : P t := by
  unfold State.renderVoices at h
  rcases hu : s.updateSlots sfxSlots with r | s1
  · simp [hu] at h
  · simp only [hu] at h
    exact songTick_keeps P (fun s s' slot _ => hslot s s' slot) hstop hmove
      (updateSlots_keeps P sfxSlots (fun s s' slot _ => hslot s s' slot) hP hu) h

end Sys2Proof.Machine
end

