-- ==== Sys2Proof/Laws/Rendering.lean ====
section
/-! SUPPORT. What the update of the slots and the song tick render, in the terms of the statements (`SlotRun`, `SlotsRun`,
`SongRun`): one lemma for each function. -/

namespace Sys2Proof.Machine

/-- What the voices of a PULL have rendered in a state. -/
def State.rendering (s : State) : Rendering := { mix := s.mix, draws := s.draws }

/-- The reference after the update of one slot. -/
def refStep (slot : SlotId) (died : Option Nat) (ref : RefVoice) : RefVoice :=
  match died with
  | some c => refAfterDeath ref slot c
  | none => ref

/-- The update of a slot is a run of that slot, and leaves the song but for a reference that died in it. -/
theorem slotRun_of_updateSlot {s s' : State} {slot : SlotId} (h : s.updateSlot slot = .ok s') :
    ∃ died, SlotRun s.cfg (s.voice slot) s.rendering (s'.voice slot) s'.rendering died ∧
      s'.song = { s.song with ref := refStep slot died s.song.ref } := by
  rcases updateSlot_ok h with ⟨hv, rfl⟩ | ⟨v, v', mix, d, hv, hu, rfl⟩ | ⟨v, v', mix, d, hv, hu, rfl⟩
  · exact ⟨none, by simp [SlotRun, hv], rfl⟩
  · refine ⟨none, ?_, by simp [refStep]⟩
    rw [hv]
    exact .inl ⟨v', by simpa [State.rendering] using hu, by simp, rfl⟩
  · refine ⟨some v'.cursor, ?_, by simp [refStep]⟩
    rw [hv]
    exact .inr ⟨v', by simpa [State.rendering] using hu, by simp, rfl⟩

/-- The update of four slots named by `name`, in order. -/
theorem updateSlots_four {s s' : State} {a b c d : SlotId} (h : s.updateSlots [a, b, c, d] = .ok s') :
    ∃ s1 s2 s3, s.updateSlot a = .ok s1 ∧ s1.updateSlot b = .ok s2 ∧ s2.updateSlot c = .ok s3 ∧ s3.updateSlot d = .ok s' := by
  unfold State.updateSlots at h
  rcases h1 : s.updateSlot a with r | s1
  · simp [h1] at h
  simp only [h1] at h
  unfold State.updateSlots at h
  rcases h2 : s1.updateSlot b with r | s2
  · simp [h2] at h
  simp only [h2] at h
  unfold State.updateSlots at h
  rcases h3 : s2.updateSlot c with r | s3
  · simp [h3] at h
  simp only [h3] at h
  unfold State.updateSlots at h
  rcases h4 : s3.updateSlot d with r | s4
  · simp [h4] at h
  simp only [h4, State.updateSlots, Except.ok.injEq] at h
  subst h
  exact ⟨s1, s2, s3, rfl, h2, h3, h4⟩

/-- The death of a one-shot voice leaves the reference. -/
@[simp] theorem refStep_sfx (k : Fin 4) (died : Option Nat) (ref : RefVoice) : refStep (.sfx k) died ref = ref := by
  cases died <;> rfl

/-- What the updates of the music slots make of the reference, slot by slot, is what they make of it together. -/
theorem refAfter_eq (ref : RefVoice) (died : Fin 4 → Option Nat) :
    refStep (.mus 3) (died 3) (refStep (.mus 2) (died 2) (refStep (.mus 1) (died 1) (refStep (.mus 0) (died 0) ref))) =
      refAfter ref died := by
  rcases ref with _ | k | c
  · rcases h0 : died 0 with _ | _ <;> rcases h1 : died 1 with _ | _ <;> rcases h2 : died 2 with _ | _ <;>
      rcases h3 : died 3 with _ | _ <;> simp [refAfter, refStep, refAfterDeath]
  · fin_cases k <;> rcases h0 : died 0 with _ | _ <;> rcases h1 : died 1 with _ | _ <;> rcases h2 : died 2 with _ | _ <;>
      rcases h3 : died 3 with _ | _ <;> simp [refAfter, refStep, refAfterDeath, h0, h1, h2, h3]
  · rcases h0 : died 0 with _ | _ <;> rcases h1 : died 1 with _ | _ <;> rcases h2 : died 2 with _ | _ <;>
      rcases h3 : died 3 with _ | _ <;> simp [refAfter, refStep, refAfterDeath]

/-- The updates of the four slots of a set, in order: the run of the set, and the reference after each. -/
theorem slotsRun_of_updateSlots (name : Fin 4 → SlotId) (slots : State → Vector (Option Voice) 4)
    (hv : ∀ (t : State) (k : Fin 4), t.voice (name k) = (slots t)[k]) (hn : ∀ j k, name j = name k → j = k)
    {s s' : State} (h : s.updateSlots [name 0, name 1, name 2, name 3] = .ok s') :
    ∃ died : Fin 4 → Option Nat, SlotsRun s.cfg (slots s) s.rendering (slots s') s'.rendering died ∧
      s'.song = { s.song with
        ref := refStep (name 3) (died 3) (refStep (name 2) (died 2)
          (refStep (name 1) (died 1) (refStep (name 0) (died 0) s.song.ref))) } := by
  obtain ⟨s1, s2, s3, h1, h2, h3, h4⟩ := updateSlots_four h
  obtain ⟨d0, r1, e1⟩ := slotRun_of_updateSlot h1
  obtain ⟨d1, r2, e2⟩ := slotRun_of_updateSlot h2
  obtain ⟨d2, r3, e3⟩ := slotRun_of_updateSlot h3
  obtain ⟨d3, r4, e4⟩ := slotRun_of_updateSlot h4
  have f1 := updateSlot_frame h1
  have f2 := updateSlot_frame h2
  have f3 := updateSlot_frame h3
  have f4 := updateSlot_frame h4
  have k1 : ∀ k, k ≠ 0 → s1.voice (name k) = s.voice (name k) := fun k hk => f1.2.2.2.2.2.2.2.2.2.2 _ fun e => hk (hn _ _ e)
  have k2 : ∀ k, k ≠ 1 → s2.voice (name k) = s1.voice (name k) := fun k hk => f2.2.2.2.2.2.2.2.2.2.2 _ fun e => hk (hn _ _ e)
  have k3 : ∀ k, k ≠ 2 → s3.voice (name k) = s2.voice (name k) := fun k hk => f3.2.2.2.2.2.2.2.2.2.2 _ fun e => hk (hn _ _ e)
  have k4 : ∀ k, k ≠ 3 → s'.voice (name k) = s3.voice (name k) := fun k hk => f4.2.2.2.2.2.2.2.2.2.2 _ fun e => hk (hn _ _ e)
  refine ⟨fun k => if k = 0 then d0 else if k = 1 then d1 else if k = 2 then d2 else d3,
    ⟨s1.rendering, s2.rendering, s3.rendering, ?_, ?_, ?_, ?_⟩, ?_⟩
  · rw [← hv, ← hv, k4 0 (by decide), k3 0 (by decide), k2 0 (by decide)]
    exact r1
  · rw [← hv, ← hv, k4 1 (by decide), k3 1 (by decide), ← k1 1 (by decide), ← f1.1]
    exact r2
  · rw [← hv, ← hv, k4 2 (by decide), ← k1 2 (by decide), ← k2 2 (by decide), ← f1.1, ← f2.1]
    exact r3
  · rw [← hv, ← hv, ← k1 3 (by decide), ← k2 3 (by decide), ← k3 3 (by decide), ← f1.1, ← f2.1, ← f3.1]
    exact r4
  · rw [e4, e3, e2, e1]
    rfl

/-- The updates of the one-shot slots are their run, and leave the song. -/
theorem slotsRun_sfx {s s' : State} (h : s.updateSlots sfxSlots = .ok s') :
    ∃ died, SlotsRun s.cfg s.sfx s.rendering s'.sfx s'.rendering died ∧ s'.song = s.song := by
  obtain ⟨died, hr, hs⟩ := slotsRun_of_updateSlots (fun k => .sfx k) (fun t => t.sfx) (fun _ _ => rfl)
    (fun _ _ e => by simpa using e) h
  exact ⟨died, hr, by simpa using hs⟩

/-- The updates of the music slots are their run, and leave of the song all but the reference. -/
theorem slotsRun_mus {s s' : State} (h : s.updateSlots musSlots = .ok s') :
    ∃ died, SlotsRun s.cfg s.mus s.rendering s'.mus s'.rendering died ∧
      s'.song = { s.song with ref := refAfter s.song.ref died } := by
  obtain ⟨died, hr, hs⟩ := slotsRun_of_updateSlots (fun k => .mus k) (fun t => t.mus) (fun _ _ => rfl)
    (fun _ _ e => by simpa using e) h
  exact ⟨died, hr, by rw [hs, refAfter_eq]⟩

/-! ## The reference voice -/

/-- Some voice of a list of channels. -/
theorem longestOf_eq (mus : Vector (Option Voice) 4) (p : Voice → Bool) (best : Option (Fin 4 × Nat)) (k : Fin 4)
    (rest : List (Fin 4)) :
    longestOf mus p best (k :: rest) = longestOf mus p (match mus[k] with
      | some v => if p v then longer best k v.instr.speed.val else best
      | none => best) rest := by
  rw [longestOf]
  rcases mus[k] with _ | v
  · rfl
  · dsimp only
    split <;> rfl

/-- The candidate found: of those looked at, in rising channel order, it has the greatest speed, the least channel on a tie. -/
def IsLongest (mus : Vector (Option Voice) 4) (p : Voice → Bool) (n : Nat) (best : Option (Fin 4 × Nat)) : Prop :=
  match best with
  | none => ∀ (j : Fin 4) (w : Voice), j.val < n → mus[j] = some w → p w = false
  | some (k, sp) => k.val < n ∧ (∃ v, mus[k] = some v ∧ p v = true ∧ v.instr.speed.val = sp) ∧
      ∀ (j : Fin 4) (w : Voice), j.val < n → mus[j] = some w → p w = true →
        w.instr.speed.val < sp ∨ (w.instr.speed.val = sp ∧ k ≤ j)

/-- One more channel looked at. -/
theorem isLongest_step {mus : Vector (Option Voice) 4} {p : Voice → Bool} {best : Option (Fin 4 × Nat)} (k : Fin 4)
    (h : IsLongest mus p k.val best) :
    IsLongest mus p (k.val + 1) (match mus[k] with
      | some v => if p v then longer best k v.instr.speed.val else best
      | none => best) := by
  have below : ∀ j : Fin 4, j.val < k.val + 1 → j ≠ k → j.val < k.val := fun j hj hne => by
    have : j.val ≠ k.val := fun e => hne (Fin.ext e)
    omega
  rcases hk : mus[k] with _ | v
  · rcases best with _ | ⟨b, sp⟩
    · intro j w hj hw
      by_cases e : j = k
      · subst e; simp [hk] at hw
      · exact h j w (below j hj e) hw
    · obtain ⟨hb, hv, hall⟩ := h
      refine ⟨by omega, hv, fun j w hj hw hp => ?_⟩
      by_cases e : j = k
      · subst e; simp [hk] at hw
      · exact hall j w (below j hj e) hw hp
  · by_cases hp : p v = true
    · simp only [hp, if_true]
      rcases best with _ | ⟨b, sp⟩
      · refine ⟨by omega, ⟨v, hk, hp, rfl⟩, fun j w hj hw hpw => ?_⟩
        by_cases e : j = k
        · subst e
          obtain rfl := Option.some.inj (hw.symm.trans hk)
          exact .inr ⟨rfl, le_refl _⟩
        · have := h j w (below j hj e) hw
          simp [this] at hpw
      · obtain ⟨hb, ⟨u, hu, hpu, hsu⟩, hall⟩ := h
        simp only [longer]
        split
        · rename_i hlt
          refine ⟨by omega, ⟨v, hk, hp, rfl⟩, fun j w hj hw hpw => ?_⟩
          by_cases e : j = k
          · subst e
            obtain rfl := Option.some.inj (hw.symm.trans hk)
            exact .inr ⟨rfl, le_refl _⟩
          · rcases hall j w (below j hj e) hw hpw with h1 | h1 <;> exact .inl (by omega)
        · rename_i hge
          refine ⟨by omega, ⟨u, hu, hpu, hsu⟩, fun j w hj hw hpw => ?_⟩
          by_cases e : j = k
          · subst e
            obtain rfl := Option.some.inj (hw.symm.trans hk)
            have hbk : b ≤ j := by rw [Fin.le_def]; omega
            by_cases hs : w.instr.speed.val < sp
            · exact .inl hs
            · exact .inr ⟨by omega, hbk⟩
          · exact hall j w (below j hj e) hw hpw
    · simp only [hp]
      rcases best with _ | ⟨b, sp⟩
      · intro j w hj hw
        by_cases e : j = k
        · subst e
          obtain rfl := Option.some.inj (hw.symm.trans hk)
          simpa using hp
        · exact h j w (below j hj e) hw
      · obtain ⟨hb, hv, hall⟩ := h
        refine ⟨by omega, hv, fun j w hj hw hpw => ?_⟩
        by_cases e : j = k
        · subst e
          obtain rfl := Option.some.inj (hw.symm.trans hk)
          exact absurd hpw hp
        · exact hall j w (below j hj e) hw hpw

/-- The channel search finds the candidate it is named after. -/
theorem isLongest_longestOf (mus : Vector (Option Voice) 4) (p : Voice → Bool) :
    IsLongest mus p 4 (longestOf mus p none channelList) := by
  have h0 : IsLongest mus p (0 : Fin 4).val none := fun j w hj => by simp at hj
  unfold channelList
  rw [longestOf_eq, longestOf_eq, longestOf_eq, longestOf_eq, longestOf]
  exact isLongest_step 3 (isLongest_step 2 (isLongest_step 1 (isLongest_step 0 h0)))

/-- Every voice loops, as the search sees it and as R243 says it. -/
theorem allLoop_iff (mus : Vector (Option Voice) 4) :
    allLoop mus channelList = true ↔ ∀ (j : Fin 4) (w : Voice), mus[j] = some w → w.instr.loopStart.val < w.instr.loopEnd.val := by
  have one : ∀ (k : Fin 4) (rest : List (Fin 4)), allLoop mus (k :: rest) = true ↔
      (∀ w, mus[k] = some w → w.instr.loopStart.val < w.instr.loopEnd.val) ∧ allLoop mus rest = true := by
    intro k rest
    rw [allLoop]
    rcases mus[k] with _ | v <;> simp [InstrumentDef.loops]
  unfold channelList
  rw [one, one, one, one]
  constructor
  · rintro ⟨h0, h1, h2, h3, -⟩ j
    fin_cases j
    · exact h0
    · exact h1
    · exact h2
    · exact h3
  · intro h
    exact ⟨h 0, h 1, h 2, h 3, rfl⟩

/-- select_ref gives the reference voice of R243. -/
theorem isReference_selectRef (mus : Vector (Option Voice) 4) : IsReference mus (selectRef mus) := by
  have cand : ∀ v : Voice, (allLoop mus channelList || !v.instr.loops) = true ↔ RefCandidate mus v := by
    intro v
    rw [Bool.or_eq_true, allLoop_iff, RefCandidate, InstrumentDef.loops]
    simp
  have h := isLongest_longestOf mus fun v => allLoop mus channelList || !v.instr.loops
  unfold selectRef
  rcases e : longestOf mus (fun v => allLoop mus channelList || !v.instr.loops) none channelList with _ | ⟨k, sp⟩
  · rw [e] at h
    left
    have none_cand : ∀ (j : Fin 4) (w : Voice), mus[j] = some w → ¬ RefCandidate mus w := fun j w hw hc => by
      exact Bool.noConfusion (((cand w).mpr hc).symm.trans (h j w j.isLt hw))
    refine ⟨fun k => ?_, rfl⟩
    rcases hk : mus[k] with _ | v
    · rfl
    · exfalso
      refine none_cand k v hk (.inl fun j w hw => ?_)
      by_contra hl
      exact none_cand j w hw (.inr hl)
  · rw [e] at h
    obtain ⟨-, ⟨v, hv, hp, hs⟩, hall⟩ := h
    refine .inr ⟨k, v, rfl, hv, (cand v).mp hp, fun j w hw hc => ?_⟩
    rcases hall j w j.isLt hw ((cand w).mpr hc) with h1 | ⟨h1, h2⟩
    · exact .inl (by rw [Fin.lt_def]; omega)
    · exact .inr ⟨Fin.ext (by omega), h2⟩

/-! ## The song tick -/

/-- The next pattern is found from the configuration, the tables and the song; the reference voice has no part in it. -/
theorem loopScan_congr {s t : State} (hc : s.cfg = t.cfg) (ht : s.tables = t.tables) (q : Nat) (h : q < 64) :
    s.loopScan q h = t.loopScan q h := by
  induction q with
  | zero => rfl
  | succ q ih =>
    have hb : s.patternByte ⟨q + 1, h⟩ 0 = t.patternByte ⟨q + 1, h⟩ 0 := by simp only [State.patternByte, hc, ht]
    unfold State.loopScan
    rw [hb, ih]

theorem nextPattern_congr {s t : State} (hc : s.cfg = t.cfg) (ht : s.tables = t.tables) (hp : s.song.pat = t.song.pat)
    (hr : s.song.cur = t.song.cur) : s.nextPattern = t.nextPattern := by
  unfold State.nextPattern
  simp only [hr, loopScan_congr hc ht]
  simp only [hp]

/-- The updates of a list of slots leave the configuration and the tables. -/
theorem updateSlots_tables {s s' : State} {slots : List SlotId} (h : s.updateSlots slots = .ok s') :
    s'.cfg = s.cfg ∧ s'.tables = s.tables :=
  updateSlots_keeps (fun t => t.cfg = s.cfg ∧ t.tables = s.tables) slots
    (fun _ _ _ _ hP hu => ⟨(updateSlot_frame hu).1.trans hP.1, (updateSlot_frame hu).2.2.2.2.1.trans hP.2⟩) ⟨rfl, rfl⟩ h

/-- A song tick that ends is a run of the song. -/
theorem songRun_of_songTick {s0 : State} {fuel : Nat} {seen : List (Fin 64 × Nat)} {s s' : State} (hc : s.cfg = s0.cfg)
    (ht : s.tables = s0.tables) (h : songTick fuel seen s = .ok s') :
    SongRun s0 s.song s.mus s.rendering s'.song s'.mus s'.rendering := by
  induction fuel generalizing seen s with
  | zero => simp [songTick] at h
  | succ fuel ih =>
    unfold songTick at h
    rcases hm : s.song.mode with _ | _
    · simp only [hm, Except.ok.injEq] at h
      subst h
      exact .stopped hm
    · rcases hu : s.updateSlots musSlots with r | s1
      · simp [hm, hu] at h
      · obtain ⟨died, hr, hs⟩ := slotsRun_mus hu
        obtain ⟨hc1, ht1⟩ := updateSlots_tables hu
        rw [hc] at hr
        have href : s1.song.ref = refAfter s.song.ref died := by rw [hs]
        have hnext : s1.nextPattern = ({ s0 with song := s.song } : State).nextPattern :=
          nextPattern_congr (hc1.trans hc) (ht1.trans ht) (by rw [hs]) (by rw [hs])
        rcases hd : s1.song.ref with _ | k | c
        · simp only [hm, hu, hd, Except.ok.injEq] at h
          subst h
          rw [hs]
          exact .goesOn hm hr (by rw [← href, hd]; simp)
        · simp only [hm, hu, hd, Except.ok.injEq] at h
          subst h
          rw [hs]
          exact .goesOn hm hr (by rw [← href, hd]; simp)
        · rcases hn : s1.nextPattern with _ | p
          · simp only [hm, hu, hd, hn, Except.ok.injEq] at h
            subst h
            have e : s1.enterStopped.song = { s.song with mode := .stopped, ref := .dead c } := by
              rw [enterStopped_song, hs, ← href, hd]
            rw [e]
            exact .stops hm hr (href.symm.trans hd) (hnext.symm.trans hn)
          · simp only [hm, hu, hd, hn] at h
            split at h
            · simp at h
            · have again := ih (s := s1.moveTo p) (hc1.trans hc) (ht1.trans ht) h
              have hdec := decodePattern_congr (hc1.trans hc) (ht1.trans ht) p
              have hcarried : s1.carriedCursor = c := by simp [State.carriedCursor, hd]
              have hmus : (s1.moveTo p).mus = Vector.ofFn fun k => s0.patternVoice (s0.decodePattern p) c k := by
                simp only [moveTo_mus, hcarried, hdec, State.patternVoice, hc1.trans hc,
                  startVoice_congr (hc1.trans hc) (ht1.trans ht)]
              have hsong : (s1.moveTo p).song = { s.song with
                  pat := p, cur := s0.decodePattern p, ref := selectRef (s1.moveTo p).mus } := by
                rw [moveTo_song, hs, hdec]
              rw [hsong, show (s1.moveTo p).rendering = s1.rendering from rfl] at again
              exact .movesOn hm hr (href.symm.trans hd) (hnext.symm.trans hn) (hmus ▸ isPatternAt_ofFn s0 p c)
                (isReference_selectRef _) again

end Sys2Proof.Machine
end

