-- ==== Sys2Proof/Machine/Api.lean ====
section
/-! DEFINITION. The assembler's forms and the guest-facing calls, and the command words they expand to (30_encoding.md R130,
R131). The calls themselves are outside the block (00_scope.md R6); only the words reach it. -/

namespace Sys2Proof.Machine

/-- An assembler line (R130). -/
inductive AsmLine where
  | nop
  | pull
  | sfx (n ch off len : Int)
  | music (n : Int) (fade mask : Int)
  deriving DecidableEq, Repr

/-- The command of an SFX line: its form is selected by `n` (R103); ignored fields keep the bits written. -/
def asmSfx (n ch off len : Int) : Instr :=
  if n = -1 then .sfxStop ch (BitVec.ofInt 8 off ++ BitVec.ofInt 8 len)
  else if n = -2 then .sfxRelease ch (BitVec.ofInt 8 off ++ BitVec.ofInt 8 len)
  else if 0 ≤ n then .sfxPlay n ch off len
  else .sfxReserved n (BitVec.ofInt 4 ch ++ BitVec.ofInt 8 off ++ BitVec.ofInt 8 len)

/-- The word of an assembler line; none where an operand lies outside its field, which the assembler refuses (R130). -/
def assemble : AsmLine → Option InstrWord
  | .nop => some (encode (.nop 0#28))
  | .pull => some (encode (.pull 0#28))
  | .sfx n ch off len =>
    if byteInField n && chInField ch && byteInField off && byteInField len then some (encode (asmSfx n ch off len)) else none
  | .music n _ _ => if byteInField n then some (encode (.music n 0#20)) else none

/-- A guest-facing call (R131). `sfx` is called with one to four arguments. -/
inductive ApiCall where
  | sfx1 (n : Int)
  | sfx2 (n channel : Int)
  | sfx3 (n channel offset : Int)
  | sfx4 (n channel offset length : Int)
  | music (n : Int) (fadeLenMs channelMask : Int)
  | requestBuffer
  deriving DecidableEq, Repr

/-- The assembler line a call expands to, row by row of the table of R131: the defaults are channel auto = −1, offset 0 and
DEFAULT_LENGTH, but for the rows `sfx(-1)`, `sfx(-1, c)` and `sfx(-2, c)`, which take offset and length 0. A call of four
arguments is passed on as it is given. -/
def ApiCall.expand (lit : Literals) : ApiCall → AsmLine
  | .sfx1 n => if n = -1 then .sfx n (-1) 0 0 else .sfx n (-1) 0 lit.defaultLength
  | .sfx2 n channel => if n = -1 ∨ n = -2 then .sfx n channel 0 0 else .sfx n channel 0 lit.defaultLength
  | .sfx3 n channel offset => .sfx n channel offset lit.defaultLength
  | .sfx4 n channel offset length => .sfx n channel offset length
  | .music n fade mask => .music n fade mask
  | .requestBuffer => .pull

end Sys2Proof.Machine
end

