-- ==== Sys2Proof/Tests/Slice0.lean ====
section
/-! SUPPORT. The model's own tests. Expected values are taken from spec/95_test_vectors.md and the worked examples of the
rules, or worked out by hand from the rules; each group names its source. The witnesses of the statements follow. -/

namespace Sys2Proof.Tests

-- One test after another: side by side, each on a thread of its own, they would take all the memory there is.
set_option Elab.async false

open Sys2Proof.Machine

/-! ## WellFormed: an ill-formed term for each check (30_encoding.md R103, R130) -/

theorem test_wf_stop_channel_high : (Instr.sfxStop 8 0#16).wf = false := by decide
theorem test_wf_stop_channel_low : (Instr.sfxStop (-9) 0#16).wf = false := by decide
theorem test_wf_release_channel : (Instr.sfxRelease 8 0#16).wf = false := by decide
theorem test_wf_play_instrument : (Instr.sfxPlay (-1) 0 0 0).wf = false ∧ (Instr.sfxPlay 128 0 0 0).wf = false := by decide
theorem test_wf_play_channel : (Instr.sfxPlay 5 8 0 0).wf = false := by decide
theorem test_wf_play_offset : (Instr.sfxPlay 5 0 128 0).wf = false := by decide
theorem test_wf_play_length : (Instr.sfxPlay 5 0 0 (-129)).wf = false := by decide
theorem test_wf_reserved_n : (Instr.sfxReserved (-2) 0#20).wf = false ∧ (Instr.sfxReserved (-129) 0#20).wf = false := by decide
theorem test_wf_music_pattern : (Instr.music 128 0#20).wf = false := by decide
theorem test_wf_boundary : (Instr.sfxPlay 127 (-8) (-128) 127).wf = true := by decide

/-! ## Decoding: words written out from the encodings (30_encoding.md R102, R103, R111; 95 part 2 table C) -/

theorem test_decode_nop : decode (.command 0x0ABCDEF0#32) = .nop 0xABCDEF0#28 := by decide
theorem test_decode_sfxStop : decode (.command 0b0001_11111111_0011_00000000_00000000#32) = .sfxStop 3 0#16 := by decide
theorem test_decode_sfxRelease : decode (.command 0b0001_11111110_0001_00000000_00000000#32) = .sfxRelease 1 0#16 := by decide
theorem test_decode_sfxPlay : decode (.command 0b0001_00000101_1111_00000000_00100000#32) = .sfxPlay 5 (-1) 0 32 := by decide
theorem test_decode_sfxPlay_signs : decode (.command 0b0001_00000000_1000_11111011_10000000#32) = .sfxPlay 0 (-8) (-5) (-128) := by decide
theorem test_decode_sfxReserved : decode (.command 0x1FD00000#32) = .sfxReserved (-3) 0#20 := by decide
theorem test_decode_music : decode (.command 0b0010_00001010_00000000000000000000#32) = .music 10 0#20 := by decide
theorem test_decode_music_negative : decode (.command 0x2FF00000#32) = .music (-1) 0#20 := by decide
theorem test_decode_pull : decode (.command 0x30000000#32) = .pull 0#28 := by decide
theorem test_decode_reserved_4_7 : decode (.command 0x70000000#32) = .reservedOp47 3#2 0#28 := by decide
theorem test_decode_reserved_8_F : decode (.command 0xF0000001#32) = .reservedOp8F 7#3 1#28 := by decide

/-- Pitch 33, wave 0, volume 7, no custom bit: the note of program P1 (95 part 3). -/
def note33 : NoteFields := { pitch := 33, wave := .triangle, volume := 7, custom := false }

theorem test_decode_fxNone : decode (.noteEffect 0b0_000_111_000_100001#16) = .fxNone note33 := by decide
theorem test_decode_fxSlide : decode (.noteEffect 0b0_001_111_000_100001#16) = .fxSlide note33 := by decide
theorem test_decode_fxVibrato : decode (.noteEffect 0b0_010_111_000_100001#16) = .fxVibrato note33 := by decide
theorem test_decode_fxDrop : decode (.noteEffect 0b0_011_111_000_100001#16) = .fxDrop note33 := by decide
theorem test_decode_fxFadeIn : decode (.noteEffect 0b0_100_111_000_100001#16) = .fxFadeIn note33 := by decide
theorem test_decode_fxFadeOut : decode (.noteEffect 0b0_101_111_000_100001#16) = .fxFadeOut note33 := by decide
theorem test_decode_fxArpFast : decode (.noteEffect 0b0_110_111_000_100001#16) = .fxArpFast note33 := by decide
theorem test_decode_fxArpSlow : decode (.noteEffect 0b1_111_101_101_000001#16) =
    .fxArpSlow { pitch := 1, wave := .organ, volume := 5, custom := true } := by decide
theorem test_decode_waveTri : decode (.noteWave 0b0_000_000_000_000000#16) = .waveTri false := by decide
theorem test_decode_waveTilt : decode (.noteWave 0b0_000_000_001_000000#16) = .waveTilt false := by decide
theorem test_decode_waveSaw : decode (.noteWave 0b0_000_111_010_100001#16) = .waveSaw false := by decide
theorem test_decode_waveSquare : decode (.noteWave 0b0_000_000_011_000000#16) = .waveSquare false := by decide
theorem test_decode_wavePulse : decode (.noteWave 0b0_000_000_100_000000#16) = .wavePulse false := by decide
theorem test_decode_waveOrgan : decode (.noteWave 0b1_000_000_101_000000#16) = .waveOrgan true := by decide
theorem test_decode_waveNoise : decode (.noteWave 0b0_000_000_110_000000#16) = .waveNoise false := by decide
theorem test_decode_wavePhaser : decode (.noteWave 0b0_000_000_111_000000#16) = .wavePhaser false := by decide

theorem test_tableWord_command : decodeTableWord 32 0x1FE10000 = some (.sfxRelease 1 0#16) := by decide
theorem test_tableWord_effect : decodeTableWord 16 0x5E21 = some (.fxFadeOut note33) := by decide
theorem test_tableWord_wave : decodeTableWord 16 0x0140 = some (.waveOrgan false) := by decide
theorem test_tableWord_zero : decodeTableWord 16 0x0000 = some (.waveTri false) := by decide
theorem test_tableWord_width : decodeTableWord 8 0x00 = none := by decide

/-- The rows of R131 with the default literals: `sfx(5)`, `sfx(5, 2)`, `sfx(5, 2, 4)`, `sfx(0, 2, 4, 8)`, `sfx(-1)`, `sfx(-1, -1)`,
`sfx(-1, 3)`, `sfx(-2, 1)` (30_encoding.md). -/
theorem test_api : [ApiCall.sfx1 5, .sfx2 5 2, .sfx3 5 2 4, .sfx4 0 2 4 8, .sfx1 (-1), .sfx2 (-1) (-1), .sfx2 (-1) 3, .sfx2 (-2) 1].map
      (fun c => assemble (c.expand Config.defaultLit)) =
    [0x105F0020#32, 0x10520020#32, 0x10520420#32, 0x10020408#32, 0x1FFF0000#32, 0x1FFF0000#32, 0x1FF30000#32, 0x1FE10000#32].map
      (fun w => some (.command w)) := by decide
/-- The general rows of R131 hold for every n: `sfx(-1, 3, 4, 8)`, `sfx(-2)`; an operand outside its field is refused (R130). -/
theorem test_api_as_given : assemble ((ApiCall.sfx4 (-1) 3 4 8).expand Config.defaultLit) = some (.command 0x1FF30408#32) ∧
    assemble ((ApiCall.sfx1 (-2)).expand Config.defaultLit) = some (.command 0x1FEF0020#32) ∧
    assemble ((ApiCall.sfx4 (-1) 3 200 8).expand Config.defaultLit) = none ∧ assemble (.sfx 5 8 0 32) = none := by decide

/-! ## Helpers -/

/-- SR = 3520 Hz, so that 440 Hz advances the phase by 1/8; B = 4. -/
def cfg4 : Cfg :=
  { sr := 3520, bufLen := 4, instrBase := 0x3200#16, songBase := 0x3100#16, lit := Config.defaultLit, waves := Config.defaultWaves, noise := .free }

/-- The block right after a reset with `cfg4`. -/
def idle : State := { State.reset with cfg := cfg4 }.clear

/-- An instrument whose 32 notes are one word. -/
def instrOf (w : NoteWord) (speed loopStart loopEnd : Fin 256) : InstrumentDef :=
  { notes := Vector.replicate 32 (decodeNote w), editorMode := 0, speed := speed, loopStart := loopStart, loopEnd := loopEnd }

/-- A voice of instrument `n` over an instrument, as a voice start leaves it, with steps 0..`last`. -/
def voiceOf (n : Fin 64) (i : InstrumentDef) (last : Fin 32) : Voice :=
  { instrIdx := n, instr := i, step := 0, lastStep := last, alive := true, active := true, loop := true, cursor := 0,
    task := none, pendFade := none, prevPitch := none, osc := freshOsc .free }

/-- A voice of speed 10, D = 1/12 s, as in table X of 95. -/
def voice10 : Voice := voiceOf 5 (instrOf 0x0E21#16 10 0 0) 31

/-- The idle block with a voice in sfx[0]. -/
def withVoice (v : Voice) : State := idle.setVoice (.sfx 0) (some v)

/-- The idle block with a voice on the bench. -/
def onBench (v : Voice) : State := { idle with bench := some (benchOf cfg4 v) }

/-- The voice on the bench of a state. -/
def benchVoice (t : State) : Option Voice := t.bench.map fun b => b.voice

/-- A task at full volume of constant pitch 33, no fade. -/
def task33 (w : Waveform) : RenderTask :=
  { wave := w, vol := 1, pitch := 33, pitchFrom := 33, fadeIn := 0, fadeOut := 0, vibrato := false, speed := 10, n := 0 }

/-- `voice10` with a task of a waveform queued, at a phase. -/
def sounding (w : Waveform) (phase : Rat) : Voice :=
  { voice10 with task := some (task33 w), osc := { voice10.osc with phase := .rat phase } }

/-- A field of the next state, when there is one. -/
def after {α : Type} (o : Host.Outcome State Fault Refusal) (f : State → α) : Option α :=
  match o with
  | .next t => some (f t)
  | .fault _ => none
  | .refused _ => none

/-- The task that an effect's instruction leaves on the bench voice. -/
def taskAfter (i : Instr) (v : Voice) : Option (Option (Option RenderTask)) :=
  after (exec i (onBench v)) fun t => (benchVoice t).map fun w => w.task

/-! ## Commands (95 part 2 table C) -/

theorem test_nop_leaves_state : after (exec (.nop 0xABCDEF0#28) idle) (fun t => t) = some idle := by
  decide +kernel
theorem test_sfxPlay_first_free : after (exec (.sfxPlay 5 (-1) 0 32) idle) (fun t => (t.sfx[(0 : Fin 4)]).map fun v =>
    (v.instrIdx, v.step, v.lastStep, v.cursor)) = some (some (5, 0, 31, 0)) := by decide +kernel
/-- SFX 5, 2, 0, 32 with voice(5) in sfx[0]: exclusivity. -/
theorem test_sfxPlay_exclusive : after (exec (.sfxPlay 5 2 0 32) (withVoice voice10)) (fun t =>
    ((t.sfx[(0 : Fin 4)]).isSome, (t.sfx[(2 : Fin 4)]).isSome)) = some (false, true) := by decide +kernel
theorem test_sfxStop_all : after (exec (.sfxStop (-1) 0#16) (withVoice voice10)) (fun t => t.sfx[(0 : Fin 4)]) = some none := by
  decide +kernel
theorem test_sfxStop_minus_two : after (exec (.sfxStop (-2) 0#16) (withVoice voice10)) (fun t => t) = some (withVoice voice10) := by
  decide +kernel
theorem test_sfxRelease : after (exec (.sfxRelease 0 0#16) (withVoice voice10)) (fun t => (t.sfx[(0 : Fin 4)]).map fun v => v.loop) =
    some (some false) := by decide +kernel
theorem test_sfxReserved : after (exec (.sfxReserved (-3) 0#20) (withVoice voice10)) (fun t => t) = some (withVoice voice10) := by
  decide +kernel
theorem test_reserved_4_7 : after (exec (.reservedOp47 3#2 0#28) (withVoice voice10)) (fun t => t) = some (withVoice voice10) := by
  decide +kernel
theorem test_reserved_8_F : after (exec (.reservedOp8F 7#3 0#28) (withVoice voice10)) (fun t => t) = some (withVoice voice10) := by
  decide +kernel

/-- Program P3's tables, the bytes a MUSIC 0 decodes: instrument 1 (speed 1, no loop), instrument 2 (speed 2, loop 0..4) and
pattern 0 (channels 1, 2, silent, silent). -/
def p3 : State :=
  { idle with tables := [(0x3100, 0x01#8), (0x3101, 0x02#8), (0x3102, 0x40#8), (0x3103, 0x40#8),
      (0x3285, 0x01#8), (0x32C9, 0x02#8), (0x32CB, 0x04#8)] }

theorem test_music_reference : after (exec (.music 0 0#20) p3) (fun t =>
    (t.song.mode, t.song.ref, (t.mus[(1 : Fin 4)]).map fun v => v.instrIdx, (t.mus[(2 : Fin 4)]).isSome)) =
    some (.playing, .live 0, some 2, false) := by decide +kernel
/-- A MUSIC with a dead reference carries its cursor (95 table P). -/
theorem test_music_carried_cursor :
    after (exec (.music 0 0#20) { p3 with song := { p3.song with ref := .dead 3 } }) (fun t => (t.mus[(0 : Fin 4)]).map fun v => v.cursor) =
    some (some 3) := by decide +kernel

/-- select_ref (95 table P): the rows of the table, as (speed, loopEnd) of the voices. -/
def refOf (l : List (Option (Fin 256 × Fin 256))) : RefVoice :=
  selectRef (Vector.ofFn fun k : Fin 4 => (l.getD k.val none).map fun p => voiceOf 0 (instrOf 0#16 p.1 0 p.2) 31)

theorem test_ref_not_looping : refOf [some (16, 4), some (8, 0)] = .live 1 := by decide +kernel
theorem test_ref_tie : refOf [some (4, 4), some (9, 4), some (9, 4)] = .live 1 := by decide +kernel
theorem test_ref_none : refOf [] = .none := by decide +kernel

/-- One PULL of program P1's first note at SR = 48000: out[1] is tanh of 0.005 · tri(0.0183333) = 0.005 · 0.648667 (95 P1). -/
theorem test_pull_first_samples : after (exec (.pull 0#28)
      { withVoice voice10 with cfg := { cfg4 with sr := 48000 } }) (fun t => (t.out[0]?, t.out[1]?)) =
    some (some { softClipOf := .rat 0 }, some { softClipOf := .rat (1 / 200 * (973 / 1500)) }) := by decide +kernel
/-- Program P4: a speed-0 voice with loop 0..2 gets the PULL stuck, slot sfx[0]. -/
theorem test_pull_stuck : after (exec (.pull 0#28) (withVoice (voiceOf 7 (instrOf 0x0E21#16 0 0 2) 31))) (fun t => t.stuck) =
    some (some (.zeroDurationLoop (.sfx 0))) := by decide +kernel

/-! ## Effects (95 part 2 table X): speed 10, D = 1/12 s -/

theorem test_fxNone : taskAfter (.fxNone note33) voice10 = some (some (some
    { task33 .triangle with fadeIn := 1 / 240 })) := by decide +kernel
/-- X5b: a pending fade-in of 12 s overrides the default. -/
theorem test_fxNone_pending : taskAfter (.fxNone note33) { voice10 with pendFade := some 12 } = some (some (some
    { task33 .triangle with fadeIn := 12 })) := by decide +kernel
theorem test_fxSlide_first : taskAfter (.fxSlide note33) voice10 = some (some (some
    { task33 .triangle with pitchFrom := 32 })) := by decide +kernel
theorem test_fxSlide : taskAfter (.fxSlide note33) { voice10 with prevPitch := some 40 } = some (some (some
    { task33 .triangle with pitchFrom := 40 })) := by decide +kernel
theorem test_fxVibrato : taskAfter (.fxVibrato note33) voice10 = some (some (some
    { task33 .triangle with vibrato := true })) := by decide +kernel
theorem test_fxDrop : taskAfter (.fxDrop { note33 with pitch := 45 }) voice10 = some (some (some
    { task33 .triangle with pitch := 0, pitchFrom := 45 })) := by decide +kernel
theorem test_fxDrop_prevPitch : after (exec (.fxDrop { note33 with pitch := 45 }) (onBench voice10)) (fun t =>
    (benchVoice t).map fun w => w.prevPitch) = some (some (some 45)) := by decide +kernel
theorem test_fxFadeIn : taskAfter (.fxFadeIn note33) voice10 = some (some (some
    { task33 .triangle with fadeIn := 95 / 1200, fadeOut := 5 / 1200 })) := by decide +kernel
theorem test_fxFadeOut : taskAfter (.fxFadeOut note33) voice10 = some (some (some
    { task33 .triangle with fadeOut := 95 / 1200 })) := by decide +kernel
/-- X5c: an effect 5 after an effect 5 takes the pending 12 s and leaves 12 s. -/
theorem test_fxFadeOut_pending : after (exec (.fxFadeOut note33) (onBench { voice10 with pendFade := some 12 })) (fun t =>
    (benchVoice t).map fun w => (w.pendFade, w.task.map fun x => x.fadeIn)) =
    some (some (some 12, some 12)) := by decide +kernel
theorem test_fxArpFast : taskAfter (.fxArpFast note33) voice10 = taskAfter (.fxNone note33) voice10 := by decide +kernel
theorem test_fxArpSlow : taskAfter (.fxArpSlow { note33 with volume := 5 }) voice10 = some (some (some
    { task33 .triangle with vol := 5 / 7, fadeIn := 1 / 240 })) := by decide +kernel
/-- The loop jump of 43_step_sequencer.md R216's worked example: loop 4..10, step 9 → 4. -/
theorem test_loop_jump : after (exec (.fxNone note33) (onBench { voiceOf 5 (instrOf 0x0E21#16 10 4 10) 31 with step := 9 })) (fun t =>
    (benchVoice t).map fun w => w.step) = some (some 4) := by decide +kernel

/-- The slots and the buffers of the block are not touched by a note selector. -/
theorem test_selector_touches_bench_only : after (exec (.waveTri false) { withVoice voice10 with bench := (onBench (sounding .triangle 0)).bench })
    (fun t => (t.sfx, t.mix, t.out)) = some ((withVoice voice10).sfx, idle.mix, idle.out) := by decide +kernel
/-- A voice selection copies the voice of the slot to the bench. -/
theorem test_selectVoice : after (step { withVoice voice10 with stream := [.selectVoice (.sfx 0)] }) benchVoice = some (some voice10) := by
  decide +kernel

/-! ## Waveforms (95 part 2 table W): 440 Hz at SR = 3520 advances the phase by 1/8 -/

/-- The bench mix sample that a waveform's instruction leaves, from a voice at a phase. -/
def mixAfter (i : Instr) (w : Waveform) (phase : Rat) : Option (Option (Option Exact)) :=
  after (exec i (onBench (sounding w phase))) fun t => t.bench.map fun b => b.mix[0]?

theorem test_waveTri : mixAfter (.waveTri false) .triangle 0 = some (some (some (.rat (35 / 100)))) := by decide +kernel
theorem test_waveTri_trough : mixAfter (.waveTri true) .triangle (3 / 8) = some (some (some (.rat (-7 / 10)))) := by decide +kernel
theorem test_waveTilt : mixAfter (.waveTilt false) .tilted (3 / 8) = some (some (some (.rat (1 / 10)))) := by decide +kernel
theorem test_waveTilt_peak : mixAfter (.waveTilt false) .tilted (3 / 4) = some (some (some (.rat (7 / 10)))) := by decide +kernel
theorem test_waveSaw : mixAfter (.waveSaw false) .sawtooth (5 / 8) = some (some (some (.rat (225 / 1000)))) := by decide +kernel
theorem test_waveSquare : mixAfter (.waveSquare false) .square (5 / 8) = some (some (some (.rat (-1 / 3)))) := by decide +kernel
theorem test_waveSquare_half : mixAfter (.waveSquare false) .square (3 / 8) = some (some (some (.rat (1 / 3)))) := by decide +kernel
theorem test_wavePulse_threshold : mixAfter (.wavePulse false) .pulse (3 / 16) = some (some (some (.rat (-1 / 3)))) := by decide +kernel
theorem test_wavePulse : mixAfter (.wavePulse false) .pulse (1 / 8) = some (some (some (.rat (1 / 3)))) := by decide +kernel
theorem test_waveOrgan : mixAfter (.waveOrgan false) .organ 0 = some (some (some (.rat (175 / 10000)))) := by decide +kernel
theorem test_wavePhaser : mixAfter (.wavePhaser false) .phaser (3 / 8) = some (some (some (.rat (-99609375 / 100000000)))) := by decide +kernel
theorem test_wavePhaser_drifted : mixAfter (.wavePhaser false) .phaser (64 - 1 / 8) = some (some (some (.rat 0))) := by decide +kernel

/-- A voice at pitch 63, where the noise scale is 1, with the reference LFSR. -/
def noisy : Voice :=
  { voice10 with
    task := some { task33 .noise with pitch := 63, pitchFrom := 63 }
    osc := freshOsc .referenceLfsr }

/-- The first noise call of 95 table W: r = 28039/65535, ns = r/2, output = ns · 0.7. -/
theorem test_waveNoise : after (exec (.waveNoise false) (onBench noisy)) (fun t =>
    t.bench.map fun b => (b.mix[0]?, b.voice.osc.ns, b.voice.osc.rng)) =
    some (some (some (.rat (28039 / 131070 * (7 / 10))), .rat (28039 / 131070), some 0xB6F6B6C3#32)) := by decide +kernel
/-- A free draw is counted. -/
theorem test_waveNoise_draw : after (exec (.waveNoise false) (onBench { noisy with osc := freshOsc .free })) (fun t => t.draws) =
    some 1 := by decide +kernel

/-- Literals and waveforms are inputs of the configuration: with SPEED_DIV = 60 and FADE_DEFAULT_IN = 1/2 a note of speed 10 fades
in for 1/2 · 10/60 s; an outside function is applied to the phase. -/
theorem test_literal_input : after (exec (.fxNone note33) { onBench voice10 with
      cfg := { cfg4 with lit := { Config.defaultLit with speedDiv := 60, fadeDefaultIn := ⟨1, 2⟩ } } })
    (fun t => (benchVoice t).map fun w => w.task.map fun x => x.fadeIn) = some (some (some (1 / 12))) := by decide +kernel
theorem test_wave_input : after (exec (.waveTri false) { onBench (sounding .triangle 0) with
      cfg := { cfg4 with waves := { Config.defaultWaves with tri := .outside 3 .phase } } })
    (fun t => t.bench.map fun b => b.mix[0]?) = some (some (some (.outside 3 (.rat (1 / 8))))) := by decide +kernel
/-- pf(33.5) is ROM[67], the last ROM entry is pf(63.5), and no entry stands above it (42_envelope_renderer.md R171). -/
theorem test_pfAt : pfAt (67 / 2) = .rom 67 ∧ pfAt (127 / 2) = .rom 127 ∧ pfAt 64 = .pitch 64 ∧ pfAt 33 = .rat 440 := by
  decide +kernel

/-! ## Steps and reset -/

theorem test_step_takes_word : after (step (idle.withFetchWord 32 0x1FFF0000)) (fun t => t) = some idle.stopAllSfx := by decide +kernel
theorem test_step_runs_effect : after (step (idle.withFetchWord 16 0x1E21)) (fun t => (benchVoice t).map fun v =>
    v.task.map fun x => x.pitchFrom) = some (some (some 32)) := by decide +kernel
/-- Reset with B = 0 and SR = 0 records code 1 (95 table Z). -/
theorem test_reset_fault : after (step { idle with stream := [.reset { cfg4 with sr := 0, bufLen := 0 }] }) (fun t => t.fault) =
    some (some (.bufferSize 0)) := by decide +kernel
/-- The first four states of the reference LFSR (92_eei_decisions.md D14). -/
theorem test_lfsr : lfsrRun 16 0x00000001#32 = 0xB6F6B6C3#32 ∧ lfsrRun 16 0xB6F6B6C3#32 = 0x8A0F3DB5#32 ∧
    lfsrRun 16 0x8A0F3DB5#32 = 0x09E5F3CF#32 ∧ lfsrRun 16 0x09E5F3CF#32 = 0x90BD2FA6#32 := by decide +kernel

/-! ## Witnesses: concrete states and operands that meet the hypotheses of each statement -/

theorem voice10_ok : voice10.Ok cfg4 where
  is_alive := rfl
  is_active := rfl
  cursor_lt := by decide
  task_ok := by intro t h; simp [voice10, voiceOf] at h
  pend_nonneg := by intro p h; simp [voice10, voiceOf] at h
  rng_named := by decide

/-- A block with a voice in one slot and a song that names at most that slot is running. -/
theorem running_one (s : State) (slot : SlotId) (v : Voice) (hc : s.cfg = cfg4) (hm : s.mix.length = 4) (ho : s.out.length = 4)
    (hv : ∀ x w, s.voice x = some w → x = slot ∧ w = v) (ok : v.Ok cfg4) (hs : s.SongOk) (hb : s.bench = none) : s.Running where
  cfg_valid := by rw [hc]; decide
  mix_length := by rw [hm, hc]; decide
  out_length := by rw [ho, hc]; decide
  voices_ok := by
    intro x w h
    obtain ⟨-, rfl⟩ := hv x w h
    rw [hc]
    exact ok
  exclusive := by
    intro j k a b ha hb _
    have h1 := (hv (.sfx j) a ha).1
    have h2 := (hv (.sfx k) b hb).1
    rw [← h2] at h1
    injection h1
  song_ok := hs
  bench_ok := by intro b h; simp [hb] at h

theorem idle_voice (x : SlotId) : idle.voice x = none := by
  rcases x with k | k <;> revert k <;> decide +kernel

theorem withVoice_voice (v : Voice) (x : SlotId) (w : Voice) (h : (withVoice v).voice x = some w) : x = .sfx 0 ∧ w = v := by
  rcases x with k | k
  · fin_cases k <;> simp [withVoice, idle, State.clear, State.setVoice, State.voice] at h ⊢
    exact h.symm
  · fin_cases k <;> simp [withVoice, idle, State.clear, State.setVoice, State.voice] at h

theorem withVoice_songOk (v : Voice) : (withVoice v).SongOk where
  live_ref := by intro k h; simp [withVoice, idle, State.clear, State.setVoice, SongState.reset] at h
  dead_ref := by intro k h; simp [withVoice, idle, State.clear, State.setVoice, SongState.reset] at h
  stopped_silent := by intro _ k; fin_cases k <;> rfl

theorem withVoice_running (v : Voice) (ok : v.Ok cfg4) : (withVoice v).Running :=
  running_one _ (.sfx 0) v rfl rfl rfl (withVoice_voice v) ok (withVoice_songOk v) rfl

theorem voice10_not_Z : ¬ voice10.Z := by
  rintro ⟨h, -⟩
  revert h
  decide

/-- The idle block playing pattern `pat` with one voice, in mus[0], the reference. -/
def playing (v : Voice) (pat : Fin 64) (cur : PatternRec) : State :=
  { idle.setVoice (.mus 0) (some v) with song := { mode := .playing, pat := pat, cur := cur, ref := .live 0 } }

theorem playing_voice (v : Voice) (pat : Fin 64) (cur : PatternRec) (x : SlotId) (w : Voice)
    (h : (playing v pat cur).voice x = some w) : x = .mus 0 ∧ w = v := by
  rcases x with k | k
  · fin_cases k <;> simp [playing, idle, State.clear, State.setVoice, State.voice] at h
  · fin_cases k <;> simp [playing, idle, State.clear, State.setVoice, State.voice] at h ⊢
    exact h.symm

theorem playing_running (v : Voice) (ok : v.Ok cfg4) (pat : Fin 64) (cur : PatternRec) : (playing v pat cur).Running :=
  running_one _ (.mus 0) v rfl rfl rfl (playing_voice v pat cur) ok
    { live_ref := by
        intro k h
        simp only [playing, RefVoice.live.injEq] at h
        subst h
        rfl
      dead_ref := by intro c h; simp [playing] at h
      stopped_silent := by intro h; simp [playing] at h } rfl

/-- A voice whose steps are all played. -/
def exhausted : Voice := { voice10 with step := 32 }

theorem exhausted_ok : exhausted.Ok cfg4 := { voice10_ok with }

theorem exhausted_not_Z : ¬ exhausted.Z := by
  rintro ⟨h, -⟩
  revert h
  decide

/-- Every one-shot slot holds a voice of its own instrument, 1..4. -/
def full : State :=
  { idle with sfx := Vector.ofFn fun k => some { voice10 with instrIdx := ⟨k.val + 1, by omega⟩ } }

theorem witness_DecodeEncode : (Instr.sfxPlay 127 (-8) (-128) 127).wf = true ∧ (Instr.sfxReserved (-128) 0#20).wf = true ∧
    (Instr.fxFadeOut note33).wf = true ∧ (Instr.waveNoise true).wf = true := by decide

/-- The instrument record that wraps round the top of the address space. -/
theorem witness_TableRecords :
    (∀ j, j < 68 → ∀ a : Addr, a.toNat = (0xFFFF + 68 * 0 + j) % 65536 →
      memRead [(0, 0x0E#8)] a = if j = 1 then 0x0E#8 else 0#8) ∧
    (∀ (j : Fin 4) (a : Addr), a.toNat = (0xFFFF + 4 * 0 + j.val) % 65536 →
      memRead [(0, 0x0E#8)] a = if j = 1 then 0x0E#8 else 0#8) := by
  have e : ∀ a : Addr, memRead [(0, 0x0E#8)] a = if a.toNat = 0 then 0x0E#8 else 0#8 := by
    intro a
    simp only [memRead, Config.blankByte, eq_comm]
  constructor
  · intro j hj a ha
    rw [e]
    have : a.toNat = 0 ↔ j = 1 := by omega
    simp only [this]
  · intro j a ha
    rw [e]
    have : a.toNat = 0 ↔ j = 1 := by
      rw [Fin.ext_iff]
      simp only [Fin.val_one]
      omega
    simp only [this]

theorem witness_StepRunsDecoded : ∃ (s : State) (w : InstrWord) (rest : List Input),
    s.stream = .issue w :: rest ∧ s.fault = none ∧ s.stuck = none :=
  ⟨{ idle with stream := [.issue (.command 0x30000000#32)] }, _, _, rfl, rfl, rfl⟩

theorem witness_HaltedBlock : ∃ (s s' : State) (i : Input) (rest : List Input),
    (s.stream = i :: rest ∧ s.fault = some (.bufferSize 0)) ∧
    (s'.stream = i :: rest ∧ s'.fault = none ∧ s'.stuck = some (.patternChainLoop 3)) ∧ ∃ w, i = .issue w :=
  ⟨{ idle with stream := [.issue (.command 0#32)], fault := some (.bufferSize 0) },
    { idle with stream := [.issue (.command 0#32)], stuck := some (.patternChainLoop 3) }, _, _,
    ⟨rfl, rfl⟩, ⟨rfl, rfl, rfl⟩, _, rfl⟩

theorem witness_NoopCauses :
    (-2 : Int) ∉ [(-1 : Int), 0, 1, 2, 3] ∧ (4 : Int) ∉ [(-1 : Int), 0, 1, 2, 3] ∧
    (∀ k : Fin 4, (4 : Int) = (k.val : Int) → (withVoice voice10).sfx[k] = none) ∧
    (∀ k : Fin 4, (3 : Int) = (k.val : Int) → (withVoice voice10).sfx[k] = none) ∧
    (64 : Int) ≤ 64 ∧ (64 : Int) ≤ 127 ∧ (4 : Int) ∉ [(-2 : Int), -1, 0, 1, 2, 3] ∧
    (∀ k : Fin 4, ∃ v, full.sfx[k] = some v ∧ (v.instrIdx.val : Int) ≠ 5) ∧ ¬ (0 ≤ (64 : Int) ∧ (64 : Int) ≤ 63) ∧
    ¬ (0 ≤ (-1 : Int) ∧ (-1 : Int) ≤ 63) := by
  refine ⟨by decide, by decide, ?_, ?_, by decide, by decide, by decide, ?_, by decide, by decide⟩
  · intro k h
    omega
  · intro k h
    have : k = 3 := by omega
    subst this
    rfl
  · intro k
    refine ⟨{ voice10 with instrIdx := ⟨k.val + 1, by omega⟩ }, by simp [full], ?_⟩
    simp only
    omega

/-- The kept slots of SFX_PLAY 5: voice(5) in sfx[0] is stopped, so slot 0 is free; among other instruments none is. -/
theorem witness_SfxPlay :
    (∀ k : Fin 4, (Vector.replicate 4 none : Vector (Option Voice) 4)[k] = match (withVoice voice10).sfx[k] with
      | some v => if v.instrIdx = 5 then none else some v
      | none => none) ∧
    ((-1 : Int) = -1 ∧ (Vector.replicate 4 none : Vector (Option Voice) 4)[(0 : Fin 4)] = none ∧ ∀ j : Fin 4, j < 0 →
      (Vector.replicate 4 none : Vector (Option Voice) 4)[j] ≠ none) ∧
    (3 : Int) = ((3 : Fin 4).val : Int) ∧ (0 : Int) = ((0 : Fin 4).val : Int) ∧
    (∀ k : Fin 4, full.sfx[k] = match full.sfx[k] with
      | some v => if v.instrIdx = 5 then none else some v
      | none => none) ∧
    (∀ k : Fin 4, full.sfx[k] ≠ none) := by
  refine ⟨?_, ?_, rfl, rfl, ?_, ?_⟩
  · intro k; fin_cases k <;> rfl
  · exact ⟨rfl, rfl, by intro j hj; omega⟩
  · intro k; fin_cases k <;> rfl
  · intro k; fin_cases k <;> simp [full]

theorem witness_SfxExclusive : ∃ t, (withVoice voice10).Exclusive ∧ exec (.sfxPlay 5 2 0 32) (withVoice voice10) = .next t :=
  ⟨_, (withVoice_running _ voice10_ok).exclusive, rfl⟩

theorem witness_Music : ∀ k : Fin 4, (playing voice10 3 silentPattern).song.ref = .live k →
    (playing voice10 3 silentPattern).mus[k] ≠ none := by
  intro k h
  simp only [playing, RefVoice.live.injEq] at h
  subst h
  simp [playing, State.setVoice]

/-- A state for each clause: shouldStop; loopEnd; neither, at pattern 63 and at pattern 62. -/
theorem witness_NextPattern :
    ((playing voice10 3 { silentPattern with shouldStop := true, loopEnd := true }).song.cur.shouldStop = true) ∧
    ((playing voice10 3 { silentPattern with loopEnd := true }).song.cur.shouldStop = false ∧
      (playing voice10 3 { silentPattern with loopEnd := true }).song.cur.loopEnd = true) ∧
    ((playing voice10 63 silentPattern).song.cur.shouldStop = false ∧ (playing voice10 63 silentPattern).song.cur.loopEnd = false ∧
      (playing voice10 63 silentPattern).song.pat = 63) ∧
    ((playing voice10 62 silentPattern).song.cur.loopEnd = false ∧
      (63 : Fin 64).val = (playing voice10 62 silentPattern).song.pat.val + 1) := by
  refine ⟨rfl, ⟨rfl, rfl⟩, ⟨rfl, rfl, rfl⟩, rfl, rfl⟩

/-- A music voice in its last note, with two samples left. -/
def ending : Voice := { voice10 with step := 32, task := some { task33 .triangle with n := 292 } }

theorem ending_ok : ending.Ok cfg4 where
  is_alive := rfl
  is_active := rfl
  cursor_lt := by decide
  task_ok := by
    intro t h
    simp only [ending, Option.some.injEq] at h
    subst h
    exact ⟨by decide +kernel, by decide +kernel, by decide +kernel, by decide +kernel, rfl⟩
  pend_nonneg := by intro p h; simp [ending, voice10, voiceOf] at h
  rng_named := by decide

theorem ending_not_Z : ¬ ending.Z := by
  rintro ⟨h, -⟩
  revert h
  decide

theorem ending_endsAt : ending.EndsAt cfg4 2 := ⟨.inr (.inl (by decide)), by decide, by decide⟩

/-- The block playing pattern 3, of no directive, with a voice as the reference, and some tables. -/
def playing3 (v : Voice) (tables : Memory) : State := { playing v 3 silentPattern with tables := tables }

theorem playing3_playsSong (v : Voice) (ok : v.Ok cfg4) (tables : Memory) : (playing3 v tables).PlaysSong := by
  refine ⟨running_one _ (.mus 0) v rfl rfl rfl
    (fun x w h => playing_voice v 3 silentPattern x w (by rcases x <;> exact h)) ok
    { live_ref := (playing_running v ok 3 silentPattern).song_ok.live_ref
      dead_ref := (playing_running v ok 3 silentPattern).song_ok.dead_ref
      stopped_silent := (playing_running v ok 3 silentPattern).song_ok.stopped_silent } rfl, rfl, ?_⟩
  intro k w h
  have := (playing_voice v 3 silentPattern (.sfx k) w h).1
  simp at this

theorem playing3_mus (v w : Voice) (tables : Memory) (k : Fin 4) (h : (playing3 v tables).mus[k] = some w) : k = 0 ∧ w = v := by
  have := playing_voice v 3 silentPattern (.mus k) w h
  exact ⟨by simpa using this.1, this.2⟩

/-- No transition. -/
theorem chain_zero (s : State) : s.Chain 0 (fun _ => s.song.pat) (fun _ => 0) (fun _ => s.mus) (fun _ => s.song.ref) where
  start := ⟨rfl, rfl, rfl⟩
  no_endless := by intro i h; omega
  ends := by intro i h; omega
  next := by intro i h; omega
  set_up := by intro i h; omega
  new_pairs := by intro i j h1 h2 h3; omega

/-- The slots of pattern 4, set up at cursor 2. -/
def slots4 (tables : Memory) : Vector (Option Voice) 4 :=
  Vector.ofFn fun k => (playing3 ending tables).patternVoice ((playing3 ending tables).decodePattern 4) 2 k

/-- The transition from pattern 3, whose reference voice ends at index 2, to pattern 4. -/
theorem chain_one (tables : Memory) (ref : RefVoice) (hr : IsReference (slots4 tables) ref) :
    (playing3 ending tables).Chain 1 (fun i => if i = 0 then 3 else 4) (fun _ => 2)
      (fun i => if i = 0 then (playing3 ending tables).mus else slots4 tables) (fun i => if i = 0 then .live 0 else ref) where
  start := ⟨rfl, rfl, rfl⟩
  no_endless := by
    intro i hi j v h
    obtain rfl : i = 0 := by omega
    rw [(playing3_mus ending v tables j h).2]
    exact ending_not_Z
  ends := by
    intro i hi
    obtain rfl : i = 0 := by omega
    exact ⟨0, ending, rfl, rfl, ending_endsAt⟩
  next := by
    intro i hi
    obtain rfl : i = 0 := by omega
    rfl
  set_up := by
    intro i hi
    obtain rfl : i = 0 := by omega
    exact ⟨isPatternAt_ofFn _ _ _, hr⟩
  new_pairs := by intro i j h1 h2 h3; omega

/-- Slots with one voice, in channel 0: it is the reference. -/
theorem reference_one {mus : Vector (Option Voice) 4} {v : Voice} (h0 : mus[(0 : Fin 4)] = some v)
    (h : ∀ k : Fin 4, k ≠ 0 → mus[k] = none) : IsReference mus (.live 0) := by
  have only : ∀ (j : Fin 4) (w : Voice), mus[j] = some w → w = v := by
    intro j w hw
    by_cases hj : j = 0
    · subst hj
      exact Option.some.inj (hw.symm.trans h0)
    · simp [h j hj] at hw
  refine .inr ⟨0, v, rfl, h0, ?_, fun j w hw _ => .inr ⟨by rw [only j w hw], Fin.zero_le j⟩⟩
  by_cases hl : v.instr.loopStart.val < v.instr.loopEnd.val
  · exact .inl fun j w hw => by rw [only j w hw]; exact hl
  · exact .inr hl

/-- No pattern follows pattern 63; the voice ends at index 2. -/
theorem witness_PullStopsSong : (playing ending 63 silentPattern).PlaysSong ∧
    (playing ending 63 silentPattern).Chain 0 (fun _ => 63) (fun _ => 0) (fun _ => (playing ending 63 silentPattern).mus)
      (fun _ => .live 0) ∧
    (∀ (k : Fin 4) (w : Voice), (playing ending 63 silentPattern).mus[k] = some w → ¬ w.Z) ∧
    (playing ending 63 silentPattern).mus[(0 : Fin 4)] = some ending ∧ ending.EndsAt cfg4 2 ∧
    (playing ending 63 silentPattern).nextAt 0 63 = none := by
  refine ⟨⟨playing_running _ ending_ok _ _, rfl, ?_⟩, chain_zero _, ?_, rfl, ending_endsAt, rfl⟩
  · intro k w h
    have := (playing_voice ending 63 silentPattern (.sfx k) w h).1
    simp at this
  · intro k w h
    rw [(playing_voice ending 63 silentPattern (.mus k) w h).2]
    exact ending_not_Z

/-- The tables with pattern 4 silent on all channels. -/
def silent4 : Memory := [(0x3110, 0x40#8), (0x3111, 0x40#8), (0x3112, 0x40#8), (0x3113, 0x40#8)]

/-- The tables with pattern 4 on channel 0 only, instrument 1 of speed 10. -/
def sounding4 : Memory :=
  [(0x3110, 0x01#8), (0x3111, 0x40#8), (0x3112, 0x40#8), (0x3113, 0x40#8), (0x3285, 0x0A#8)]

/-- The fresh voice of pattern 4. -/
def fresh4 (tables : Memory) : Voice := (playing3 ending tables).startVoice 1 0 Config.defaultLit.defaultLength 2

theorem slots4_none (tables : Memory) (h : ∀ k : Fin 4, ((playing3 ending tables).decodePattern 4).channels[k].isSilent = true) :
    ∀ k : Fin 4, (slots4 tables)[k] = none := fun k => ((isPatternAt_ofFn (playing3 ending tables) 4 2) k).1 (h k)

theorem slots4_one (tables : Memory)
    (h : ∀ k : Fin 4, ((playing3 ending tables).decodePattern 4).channels[k].isSilent = decide (k ≠ 0))
    (hi : ((playing3 ending tables).decodePattern 4).channels[(0 : Fin 4)].instrumentIndex = 1) :
    (slots4 tables)[(0 : Fin 4)] = some (fresh4 tables) ∧ ∀ k : Fin 4, k ≠ 0 → (slots4 tables)[k] = none := by
  constructor
  · have h0 : ((playing3 ending tables).decodePattern 4).channels[(0 : Fin 4)].isSilent = false := by rw [h]; decide
    simp only [Fin.getElem_fin, Fin.val_zero] at h0 hi
    simp [slots4, State.patternVoice, h0, hi, fresh4]
    rfl
  · intro k hk
    exact ((isPatternAt_ofFn (playing3 ending tables) 4 2) k).1 (by rw [h]; simpa using hk)

/-- Three PULLs: no transition; one into a silent pattern; one into a pattern whose voice sounds on. -/
theorem witness_PullMovesOn :
    ((playing3 voice10 []).PlaysSong ∧ (playing3 voice10 []).Chain 0 (fun _ => 3) (fun _ => 0)
        (fun _ => (playing3 voice10 []).mus) (fun _ => .live 0) ∧ ∀ stop, ¬ voice10.EndsAt cfg4 stop) ∧
    ((playing3 ending silent4).PlaysSong ∧ IsReference (slots4 silent4) .none ∧ ∀ k : Fin 4, (slots4 silent4)[k] = none) ∧
    ((playing3 ending sounding4).PlaysSong ∧
      (playing3 ending sounding4).Chain 1 (fun i => if i = 0 then 3 else 4) (fun _ => 2)
        (fun i => if i = 0 then (playing3 ending sounding4).mus else slots4 sounding4) (fun i => if i = 0 then .live 0 else .live 0) ∧
      (slots4 sounding4)[(0 : Fin 4)] = some (fresh4 sounding4) ∧ (∀ k : Fin 4, k ≠ 0 → (slots4 sounding4)[k] = none) ∧
      ¬ (fresh4 sounding4).Z ∧ ∀ stop, ¬ (fresh4 sounding4).EndsAt cfg4 stop) := by
  have hs := slots4_none silent4 (by decide +kernel)
  obtain ⟨h0, h1⟩ := slots4_one sounding4 (by decide +kernel) (by decide +kernel)
  refine ⟨⟨playing3_playsSong _ voice10_ok _, chain_zero _, ?_⟩, ⟨playing3_playsSong _ ending_ok _, .inl ⟨hs, rfl⟩, hs⟩,
    playing3_playsSong _ ending_ok _, chain_one _ _ (reference_one h0 h1), h0, h1, ?_, ?_⟩
  · rintro stop ⟨-, rfl, h⟩
    revert h
    decide
  · rintro ⟨h, -⟩
    revert h
    decide +kernel
  · rintro stop ⟨-, rfl, h⟩
    revert h
    decide +kernel

theorem witness_SilentPattern :
    (∀ j : Fin 4, (({ idle with tables := silent4 } : State).decodePattern 4).channels[j].isSilent = true) ∧
    (∃ s t : State, s.song.mode = .playing ∧ s.song.ref = .none ∧ (∀ j : Fin 4, s.mus[j] = none) ∧
      (∀ n x, Instr.pull 0#28 ≠ .music n x) ∧ exec (.pull 0#28) s = .next t) := by
  refine ⟨by decide +kernel, { idle with song := { idle.song with mode := .playing } }, ?_⟩
  have h : (after (exec (.pull 0#28) { idle with song := { idle.song with mode := .playing } }) fun _ => ()) = some () := by
    decide +kernel
  rcases e : exec (.pull 0#28) { idle with song := { idle.song with mode := .playing } } with t | f | r
  · exact ⟨t, rfl, rfl, by decide, by intro n x; simp, rfl⟩
  · simp [e, after] at h
  · simp [e, after] at h

/-- Tables in which every instrument has speed 1. -/
def allSpeeds : Memory := (List.range 64).map fun n => (0x3200 + 68 * n + 65, 1#8)

theorem witness_PullCompletes : ({ withVoice voice10 with tables := allSpeeds } : State).Running ∧
    (∀ slot v, ({ withVoice voice10 with tables := allSpeeds } : State).voice slot = some v → ¬ v.Z) ∧
    ∀ n : Fin 64, 1 ≤ (({ withVoice voice10 with tables := allSpeeds } : State).decodeInstrument n).speed.val := by
  have hv : ∀ x w, ({ withVoice voice10 with tables := allSpeeds } : State).voice x = some w → x = .sfx 0 ∧ w = voice10 :=
    fun x w h => withVoice_voice voice10 x w (by rcases x <;> exact h)
  refine ⟨running_one _ (.sfx 0) voice10 rfl (by decide) (by decide) hv voice10_ok
    { live_ref := (withVoice_songOk voice10).live_ref
      dead_ref := (withVoice_songOk voice10).dead_ref
      stopped_silent := (withVoice_songOk voice10).stopped_silent } rfl, ?_, by decide +kernel⟩
  intro x w h
  rw [(hv x w h).2]
  exact voice10_not_Z

/-- A voice of speed 0 with loop 0..2. -/
def endless : Voice := voiceOf 7 (instrOf 0x0E21#16 0 0 2) 31

theorem endless_ok : endless.Ok cfg4 where
  is_alive := rfl
  is_active := rfl
  cursor_lt := by decide
  task_ok := by intro t h; simp [endless, voiceOf] at h
  pend_nonneg := by intro p h; simp [endless, voiceOf] at h
  rng_named := by decide

theorem endless_Z : endless.Z := by
  unfold Voice.Z
  decide

/-- The tables with pattern 4 on channel 0 only, instrument 1 of speed 0, with the directives loopStart and loopEnd. -/
def zeroCycle : Memory := [(0x3110, 0x81#8), (0x3111, 0xC0#8), (0x3112, 0x40#8), (0x3113, 0x40#8)]

/-- One state for each reason: an endless one-shot voice; an endless music voice; a pattern that completes at the cursor where
it starts and is its own successor. -/
theorem witness_PullStuck :
    ((withVoice endless).Running ∧ (withVoice endless).sfx[(0 : Fin 4)] = some endless ∧ endless.Z ∧
      ∀ (j : Fin 4) (w : Voice), j < 0 → (withVoice endless).sfx[j] = some w → ¬ w.Z) ∧
    ((playing3 endless []).PlaysSong ∧ (playing3 endless []).Chain 0 (fun _ => 3) (fun _ => 0)
        (fun _ => (playing3 endless []).mus) (fun _ => .live 0) ∧ (playing3 endless []).mus[(0 : Fin 4)] = some endless) ∧
    ((playing3 ending zeroCycle).PlaysSong ∧
      (playing3 ending zeroCycle).Chain 1 (fun i => if i = 0 then 3 else 4) (fun _ => 2)
        (fun i => if i = 0 then (playing3 ending zeroCycle).mus else slots4 zeroCycle) (fun i => if i = 0 then .live 0 else .live 0) ∧
      (slots4 zeroCycle)[(0 : Fin 4)] = some (fresh4 zeroCycle) ∧ (∀ k : Fin 4, k ≠ 0 → (slots4 zeroCycle)[k] = none) ∧
      ¬ (fresh4 zeroCycle).Z ∧ (fresh4 zeroCycle).EndsAt cfg4 2 ∧ (playing3 ending zeroCycle).nextAt 1 4 = some 4) := by
  obtain ⟨h0, h1⟩ := slots4_one zeroCycle (by decide +kernel) (by decide +kernel)
  refine ⟨⟨withVoice_running _ endless_ok, rfl, endless_Z, by intro j w h; omega⟩,
    ⟨playing3_playsSong _ endless_ok _, chain_zero _, rfl⟩, playing3_playsSong _ ending_ok _,
    chain_one _ _ (reference_one h0 h1), h0, h1, ?_, ⟨.inr (.inl (by decide +kernel)), by decide +kernel, by decide⟩, by decide +kernel⟩
  rintro ⟨-, -, h, -⟩
  revert h
  decide +kernel

/-- A voice whose notes have volume 0. -/
def silentVoice : Voice := voiceOf 5 (instrOf 0x0021#16 10 0 0) 31

theorem silentVoice_ok : silentVoice.Ok cfg4 where
  is_alive := rfl
  is_active := rfl
  cursor_lt := by decide
  task_ok := by intro t h; simp [silentVoice, voiceOf] at h
  pend_nonneg := by intro p h; simp [silentVoice, voiceOf] at h
  rng_named := by decide

theorem silentVoice_silent : silentVoice.Silent := ⟨by intro t ht; simp [silentVoice, voiceOf] at ht, by decide +kernel⟩

theorem silentVoice_not_Z : ¬ silentVoice.Z := by
  rintro ⟨h0, -⟩
  revert h0
  decide

/-- An idle block; silent one-shot notes; a silent music voice that plays on; and one at its end in pattern 63, where the song
stops. -/
theorem witness_SilentPull : ((∀ slot, idle.voice slot = none) ∧ idle.song.mode = .stopped) ∧
    ((withVoice silentVoice).Running ∧ (withVoice silentVoice).song.mode = .stopped ∧
      ∀ (k : Fin 4) (v : Voice), (withVoice silentVoice).sfx[k] = some v → v.Silent ∧ ¬ v.Z) ∧
    ((playing3 silentVoice []).PlaysSong ∧
      (playing3 silentVoice []).Chain 0 (fun _ => 3) (fun _ => 0) (fun _ => (playing3 silentVoice []).mus) (fun _ => .live 0) ∧
      (∀ (k : Fin 4) (v : Voice), (playing3 silentVoice []).mus[k] = some v → v.Silent ∧ ¬ v.Z) ∧
      ∀ stop, ¬ silentVoice.EndsAt cfg4 stop) ∧
    ({ silentVoice with step := 32 } : Voice).EndsAt cfg4 0 ∧
    (playing { silentVoice with step := 32 } 63 silentPattern).nextAt 0 63 = none := by
  refine ⟨⟨idle_voice, rfl⟩, ⟨withVoice_running _ silentVoice_ok, rfl, ?_⟩,
    ⟨playing3_playsSong _ silentVoice_ok _, chain_zero _, ?_, ?_⟩, ⟨.inr (.inl (by decide)), by decide, by decide⟩, rfl⟩
  · intro k v h
    obtain ⟨-, rfl⟩ := withVoice_voice silentVoice (.sfx k) v h
    exact ⟨silentVoice_silent, silentVoice_not_Z⟩
  · intro k v h
    rw [(playing3_mus silentVoice v [] k h).2]
    exact ⟨silentVoice_silent, silentVoice_not_Z⟩
  · rintro stop ⟨-, rfl, h⟩
    revert h
    decide

theorem witness_PullKeepsVoices : ∃ s t : State, s.Running ∧ exec (.pull 0#28) s = .next t ∧ s.stuck = none ∧ t.stuck = none ∧
    (t.sfx[(0 : Fin 4)]).isSome = true := by
  have h : (after (exec (.pull 0#28) (withVoice voice10)) fun t => (t.stuck, (t.sfx[(0 : Fin 4)]).isSome)) = some (none, true) := by
    decide +kernel
  rcases e : exec (.pull 0#28) (withVoice voice10) with t | f | r
  · rw [e] at h
    simp only [after, Option.some.injEq, Prod.mk.injEq] at h
    exact ⟨_, t, withVoice_running _ voice10_ok, e, rfl, h.1, h.2⟩
  · simp [e, after] at h
  · simp [e, after] at h

theorem cfg4_valid : CfgValid cfg4 := by decide

theorem witness_UpdateEndsExactly : CfgValid cfg4 ∧ voice10.Ok cfg4 ∧ ¬ voice10.Z ∧ endless.Ok cfg4 ∧ endless.Z ∧
    idle.mix.length = cfg4.B := ⟨cfg4_valid, voice10_ok, voice10_not_Z, endless_ok, endless_Z, by decide⟩

theorem witness_SongFuelSuffices : (playing voice10 3 silentPattern).Running ∧ songFuel cfg4 ≤ 1000 :=
  ⟨playing_running _ voice10_ok _ _, by decide⟩

/-- A voice that dies in the update, at its cursor, and one that fills the buffer exactly. -/
theorem witness_UpdateSpendsSamples : CfgValid cfg4 ∧ exhausted.Ok cfg4 ∧ exhausted.NoJumps ∧
    exhausted.cursor + exhausted.samplesLeft cfg4 < cfg4.B ∧ voice10.Ok cfg4 ∧ voice10.NoJumps ∧
    cfg4.B ≤ voice10.cursor + voice10.samplesLeft cfg4 := by
  refine ⟨cfg4_valid, exhausted_ok, .inr (.inl (by decide)), by decide, voice10_ok, .inr (.inl (by decide)), by decide⟩

theorem witness_Lifetime : CfgValid cfg4 ∧ voice10.Ok cfg4 ∧ voice10.NoJumps ∧ voice10.task = none ∧ voice10.cursor = 0 ∧
    1 ≤ voice10.instr.speed.val := ⟨cfg4_valid, voice10_ok, .inr (.inl (by decide)), rfl, rfl, by decide⟩

theorem witness_ProcessStraddles : ∃ r1 r2 : ProcessOut,
    renderFrom cfg4 true idle.mix (task33 .triangle) (freshOsc .free) 0 = r1 ∧
    renderFrom cfg4 true idle.mix r1.task r1.osc r1.draws = r2 := ⟨_, _, rfl, rfl⟩

theorem canRender (v : Voice) (task : RenderTask) (hc : v.cursor = 0) (ht : v.task = some task)
    (hn : task.n * cfg4.lit.speedDiv < task.speed.val * cfg4.rate) : (onBench v).CanRender (benchOf cfg4 v) task (.rat 0) where
  on_bench := rfl
  queued := ht
  at_cursor := by simp only [benchOf]; rw [hc]; rfl
  not_complete := hn

/-- A valid rate, and one of 48000 Hz with the default literals. -/
theorem witness_TaskCompletion : 1 ≤ cfg4.rate ∧ ({ cfg4 with sr := 48000 } : Cfg).lit.speedDiv = Config.defaultLit.speedDiv ∧
    ({ cfg4 with sr := 48000 } : Cfg).rate = 48000 := by decide

/-- The volume law at a time in the ramp-out of effect 5. -/
theorem witness_VolumeLaw : ({ task33 .triangle with fadeOut := 95 / 1200 } : RenderTask).Ok 10 ∧ (0 : Rat) ≤ 1 / 20 ∧
    (1 / 20 : Rat) < duration cfg4.lit 10 ∧ ¬ (1 / 20 : Rat) < (task33 .triangle).fadeIn ∧
    ¬ (1 / 20 : Rat) < duration cfg4.lit 10 - 95 / 1200 := by
  refine ⟨⟨by decide +kernel, by decide +kernel, by decide +kernel, by decide +kernel, rfl⟩, by decide +kernel, by decide +kernel,
    by decide +kernel, by decide +kernel⟩

/-- A constant pitch, and a vibrato at its top after 1/32 s. -/
theorem witness_FrequencyLaw : (task33 .triangle).vibrato = false ∧ (task33 .triangle).pitchFrom = (task33 .triangle).pitch ∧
    1 ≤ (task33 .triangle).speed.val ∧ ({ task33 .triangle with vibrato := true } : RenderTask).vibrato = true ∧
    Config.defaultLit.vibHz * (1 / 32) = 1 / 4 := by decide +kernel

theorem witness_RomContents : (127 : Fin 128).val = (126 : Fin 128).val + 1 ∧ (63 : Fin 64).val = (51 : Fin 64).val + 12 ∧
    (127 : Fin 128).val = 2 * (63 : Fin 64).val + 1 := by decide

theorem witness_WaveTilt : ((0 : ℝ) ≤ 0 ∧ (0 : ℝ) < 0.875) ∧ ((0.875 : ℝ) ≤ 0.875 ∧ (0.875 : ℝ) < 1) := by norm_num

/-- A bench voice for each of the seven waveforms. -/
theorem witness_WavesRender :
    ((onBench (sounding .triangle 0)).CanRender (benchOf cfg4 (sounding .triangle 0)) (task33 .triangle) (.rat 0) ∧
      (sounding .triangle 0).active = true) ∧
    ((onBench (sounding .tilted (3 / 4))).CanRender (benchOf cfg4 (sounding .tilted (3 / 4))) (task33 .tilted) (.rat 0) ∧
      (sounding .tilted (3 / 4)).active = true) ∧
    ((onBench (sounding .sawtooth 0)).CanRender (benchOf cfg4 (sounding .sawtooth 0)) (task33 .sawtooth) (.rat 0) ∧
      (sounding .sawtooth 0).active = true) ∧
    ((onBench (sounding .square (3 / 8))).CanRender (benchOf cfg4 (sounding .square (3 / 8))) (task33 .square) (.rat 0) ∧
      (sounding .square (3 / 8)).active = true) ∧
    ((onBench (sounding .pulse (3 / 16))).CanRender (benchOf cfg4 (sounding .pulse (3 / 16))) (task33 .pulse) (.rat 0) ∧
      (sounding .pulse (3 / 16)).active = true) ∧
    ((onBench (sounding .organ 0)).CanRender (benchOf cfg4 (sounding .organ 0)) (task33 .organ) (.rat 0) ∧
      (sounding .organ 0).active = true) ∧
    ((onBench (sounding .phaser 0)).CanRender (benchOf cfg4 (sounding .phaser 0)) (task33 .phaser) (.rat 0) ∧
      (sounding .phaser 0).active = true) :=
  ⟨⟨canRender _ _ rfl rfl (by decide), rfl⟩,
    ⟨canRender _ _ rfl rfl (by decide), rfl⟩,
    ⟨canRender _ _ rfl rfl (by decide), rfl⟩,
    ⟨canRender _ _ rfl rfl (by decide), rfl⟩,
    ⟨canRender _ _ rfl rfl (by decide), rfl⟩,
    ⟨canRender _ _ rfl rfl (by decide), rfl⟩,
    ⟨canRender _ _ rfl rfl (by decide), rfl⟩⟩
/-- Both noise sources: the reference LFSR and free draws. -/
theorem witness_WaveNoise :
    (onBench noisy).CanRender (benchOf cfg4 noisy) { task33 .noise with pitch := 63, pitchFrom := 63 } (.rat 0) ∧
    noisy.active = true ∧ noisy.osc.rng = some 0x00000001#32 ∧
    (onBench (sounding .noise 0)).CanRender (benchOf cfg4 (sounding .noise 0)) (task33 .noise) (.rat 0) ∧
    (sounding .noise 0).osc.rng = none :=
  ⟨canRender _ _ rfl rfl (by decide), rfl, rfl, canRender _ _ rfl rfl (by decide), rfl⟩

theorem canSchedule (v : Voice) (k : Fin 32) (ht : v.task = none) (hs : v.step.val = k.val) (hp : k.val ≤ v.lastStep.val) :
    (onBench v).CanSchedule (benchOf cfg4 v) k := ⟨rfl, ht, hs, hp⟩

theorem witness_FxHeld : Effect.none ∈ [Effect.none, Effect.arpFast, Effect.arpSlow] ∧
    Effect.arpFast ∈ [Effect.none, Effect.arpFast, Effect.arpSlow] ∧ Effect.arpSlow ∈ [Effect.none, Effect.arpFast, Effect.arpSlow] := by decide

/-- Bench voices that can schedule: at the first step, at the last one, at a loop jump, with a pending fade-in; one that can
render; an empty bench; and a voice selection of an occupied slot and of an empty one. -/
theorem witness_SelectorsAreThePulls :
    ((onBench voice10).CanSchedule (benchOf cfg4 voice10) 0 ∧
      (onBench { voice10 with step := 31 }).CanSchedule (benchOf cfg4 { voice10 with step := 31 }) 31 ∧
      (onBench { voiceOf 5 (instrOf 0x4E21#16 10 4 10) 31 with step := 9 }).CanSchedule
        (benchOf cfg4 { voiceOf 5 (instrOf 0x4E21#16 10 4 10) 31 with step := 9 }) 9 ∧
      (onBench { voice10 with pendFade := some 12 }).CanSchedule (benchOf cfg4 { voice10 with pendFade := some 12 }) 0) ∧
    (onBench (sounding .triangle 0)).CanRender (benchOf cfg4 (sounding .triangle 0)) (task33 .triangle) (.rat 0) ∧
    (∀ b k, ¬ idle.CanSchedule b k) ∧ (∀ b task m, ¬ idle.CanRender b task m) ∧
    (withVoice voice10).voice (.sfx 0) = some voice10 ∧ (withVoice voice10).voice (.mus 3) = none := by
  refine ⟨⟨canSchedule _ _ rfl rfl (by decide), canSchedule _ _ rfl rfl (by decide), canSchedule _ _ rfl rfl (by decide),
    canSchedule _ _ rfl rfl (by decide)⟩, canRender _ _ rfl rfl (by decide), ?_, ?_, rfl, rfl⟩
  · intro b k h
    have := h.on_bench
    simp [idle, State.clear] at this
  · intro b task m h
    have := h.on_bench
    simp [idle, State.clear] at this

/-- The source's loop 4..10, at its last step and at its first; and a released voice. -/
theorem witness_LoopSteps : ∃ v w : Voice, (v.loop = true ∧ v.instr.loopStart.val < v.instr.loopEnd.val ∧
    v.instr.loopEnd.val ≤ v.lastStep.val + 1 ∧ v.step.val + 1 ≤ v.instr.loopEnd.val) ∧
    (w.loop = false ∧ w.step.val ≤ w.lastStep.val) :=
  ⟨{ voiceOf 5 (instrOf 0x4E21#16 10 4 10) 9 with step := 9 }, voice10.release, by decide, by decide⟩

theorem witness_Reset : ∃ (s : State) (c c' c'' : Cfg) (rest : List Input),
    (s.stream = .reset c :: rest ∧ c.bufLen < 1) ∧
    (({ s with stream := .reset c' :: rest } : State).stream = .reset c' :: rest ∧ 1 ≤ c'.bufLen ∧ c'.sr < 1) ∧
    (({ s with stream := .reset c'' :: rest } : State).stream = .reset c'' :: rest ∧ 1 ≤ c''.bufLen ∧ 1 ≤ c''.sr) :=
  ⟨{ idle with stream := [.reset { cfg4 with bufLen := 0, sr := 0 }] }, { cfg4 with bufLen := 0, sr := 0 },
    { cfg4 with bufLen := 1, sr := 0 }, { cfg4 with bufLen := 1, sr := 1 }, [], ⟨rfl, by decide⟩, ⟨rfl, by decide, by decide⟩,
    rfl, by decide, by decide⟩

/-- A running block with a voice in sfx[0] and a PULL at the head of its stream. -/
def pulling (v : Voice) : State := { withVoice v with stream := [.issue (.command 0x00000000#32), .issue (.command 0x30000000#32)] }

theorem pulling_inv : (pulling voice10).Inv where
  tables_wf := by decide
  running := fun _ => running_one _ (.sfx 0) voice10 rfl (by decide) (by decide)
    (fun x w h => withVoice_voice voice10 x w (by rcases x <;> exact h)) voice10_ok
    { live_ref := (withVoice_songOk voice10).live_ref
      dead_ref := (withVoice_songOk voice10).dead_ref
      stopped_silent := (withVoice_songOk voice10).stopped_silent } rfl

theorem voice10_signal : voice10.SignalOk where
  phase_lower := by intro d; simp [voice10, voiceOf, freshOsc]
  phase_upper := by intro d; simp [voice10, voiceOf, freshOsc]
  ns_lower := by intro d; simp [voice10, voiceOf, freshOsc]
  ns_upper := by intro d; simp [voice10, voiceOf, freshOsc]

theorem witness_InvStep : ∃ t, (pulling voice10).Inv ∧ step (pulling voice10) = .next t := ⟨_, pulling_inv, rfl⟩

theorem witness_SignalInvStep : ∃ t, (pulling voice10).Inv ∧ (pulling voice10).SignalInv ∧ step (pulling voice10) = .next t := by
  refine ⟨_, pulling_inv, fun _ => ⟨?_, ?_⟩, rfl⟩
  · intro x w h
    rw [(withVoice_voice voice10 x w (by rcases x <;> exact h)).2]
    exact voice10_signal
  · intro b h
    simp [pulling, withVoice, idle, State.clear, State.setVoice] at h

theorem witness_SoftClip (d : Valuation) : (0 ≤ (Exact.rat 0).val d ∧ (Exact.rat 0).val d ≤ (Exact.rat (1 / 2)).val d) ∧
    ((Exact.rat (-1)).val d ≤ (Exact.rat (-1 / 2)).val d ∧ (Exact.rat (-1 / 2)).val d < 0) := by
  simp only [val_rat]
  norm_num

/-- A step for each clause: a NOP, a table write to a canonical memory, a note selector, an SFX word and a MUSIC word. -/
theorem witness_WholeMachineFrame :
    (∃ t, step (pulling voice10) = .next t ∧ (∀ c rest, (pulling voice10).stream ≠ .reset c :: rest) ∧
      ∀ a b rest, (pulling voice10).stream ≠ .tableWrite a b :: rest) ∧
    (∃ t, step { idle with stream := [.tableWrite 0xFFFF#16 1#8] } = .next t ∧ Memory.wf idle.tables = true) ∧
    (∃ t, step { onBench voice10 with stream := [.issue (.noteEffect 0x0E21#16)] } = .next t) ∧
    (∃ t, step { idle with stream := [.issue (.command 0x1FFF0000#32)] } = .next t ∧ (0x1FFF0000#32).extractLsb' 28 4 = 0x1#4) ∧
    (∃ t, step { idle with stream := [.issue (.command 0x20000000#32)] } = .next t ∧ (0x20000000#32).extractLsb' 28 4 = 0x2#4) := by
  refine ⟨⟨_, rfl, by simp [pulling], by simp [pulling]⟩, ⟨_, rfl, by decide⟩, ⟨_, rfl⟩, ⟨_, rfl, by decide⟩, ⟨_, rfl, by decide⟩⟩

/-- Two blocks that differ in a mix sample, a phase and the draws made; and two faulted ones. -/
theorem witness_SoundNeverSteers : ∃ s s' t : State, s.SameControl s' ∧ s ≠ s' ∧ step s = .next t ∧
    ∃ r r' : State, r.SameControl r' ∧ step r = .fault (.configuration (.sampleRate 0)) := by
  refine ⟨pulling voice10, { pulling (sounding .triangle (1 / 2)) with
      draws := 9, mix := [.rat 1, .rat 1, .rat 1, .rat 1],
      sfx := (pulling { voice10 with osc := { voice10.osc with phase := .rat (1 / 2) } }).sfx }, _, ?_, by decide +kernel, rfl,
    { pulling voice10 with fault := some (.sampleRate 0) }, { pulling voice10 with fault := some (.sampleRate 0), draws := 5 }, ?_, rfl⟩
  · refine ⟨rfl, rfl, ?_, rfl, rfl, rfl, rfl, rfl, trivial⟩
    rintro (k | k) <;> fin_cases k <;> first | exact trivial | rfl
  · refine ⟨rfl, rfl, ?_, rfl, rfl, rfl, rfl, rfl, trivial⟩
    rintro (k | k) <;> fin_cases k <;> first | exact trivial | rfl

/-- The default waveform functions stay in [−1, 1]. -/
theorem defaultWaves_inRange (lit : Literals) (d : Valuation) : WavesInRange lit d Config.defaultWaves := by
  have u0 : ∀ x : ℝ, 0 ≤ WaveFn.u.real lit d x := fun x => by
    simp [WaveFn.u, WaveFn.real, Int.self_sub_floor]
  have u1 : ∀ x : ℝ, WaveFn.u.real lit d x < 1 := fun x => by
    have := Int.fract_lt_one x
    simpa [WaveFn.u, WaveFn.real, Int.self_sub_floor] using this
  have t0 : ∀ (y : WaveFn) (x : ℝ), |(WaveFn.triHarmonic y).real lit d x| ≤ 1 / 2 := fun y x => by
    have h0 := Int.fract_nonneg (y.real lit d x / 2)
    have h1 := Int.fract_lt_one (y.real lit d x / 2)
    rw [← Int.self_sub_floor] at h0 h1
    simp only [WaveFn.triHarmonic, WaveFn.shift, WaveFn.real, Rat.cast_neg, Rat.cast_one, Rat.cast_ofNat, Rat.cast_div]
    rw [abs_le]
    constructor
    · have := abs_nonneg (y.real lit d x - 2 * (⌊y.real lit d x / 2⌋ : ℝ) + -1)
      linarith
    · have : |y.real lit d x - 2 * (⌊y.real lit d x / 2⌋ : ℝ) + -1| ≤ 1 := abs_le.mpr ⟨by linarith, by linarith⟩
      linarith
  intro fn hfn x
  have a0 := u0 x
  have a1 := u1 x
  simp only [Config.defaultWaves, List.mem_cons, List.not_mem_nil, or_false] at hfn
  rcases hfn with rfl | rfl | rfl | rfl | rfl | rfl | rfl
  · simp only [shapeTri, WaveFn.scale, WaveFn.shift, WaveFn.real]
    push_cast
    rcases abs_cases (2 * WaveFn.u.real lit d x + -1) with ⟨h, h'⟩ | ⟨h, h'⟩ <;> rw [h, abs_le] <;> constructor <;> linarith
  · simp only [shapeTilt, WaveFn.scale, WaveFn.shift, WaveFn.real]
    push_cast
    split <;> rw [abs_le] <;> constructor <;> linarith
  · simp only [shapeSaw, WaveFn.scale, WaveFn.shift, WaveFn.real]
    push_cast
    rw [abs_le]
    constructor <;> linarith
  · simp only [shapeSquare, WaveFn.real]
    push_cast
    split <;> rw [abs_le] <;> constructor <;> norm_num
  · simp only [shapePulse, WaveFn.real]
    push_cast
    split <;> rw [abs_le] <;> constructor <;> norm_num
  · have h1 := abs_le.mp (t0 (.scale 4 .phase) x)
    have h2 := abs_le.mp (t0 (.scale 2 .phase) x)
    simp only [shapeOrgan, WaveFn.scale, WaveFn.shift, WaveFn.real] at h1 h2 ⊢
    push_cast
    rw [abs_le]
    constructor <;> linarith
  · have h1 := abs_le.mp (t0 (.scale 2 .phase) x)
    have h2 := abs_le.mp (t0 (.scale (127 / 64) .phase) x)
    simp only [shapePhaser, WaveFn.scale, WaveFn.shift, WaveFn.real] at h1 h2 ⊢
    push_cast
    rw [abs_le]
    constructor <;> linarith

/-- A voice before its first step, one in a task, one at its end; functions within range; two buffers. -/
theorem witness_MixAccumulates : CfgValid cfg4 ∧ voice10.Ok cfg4 ∧ voice10.SignalOk ∧ ¬ voice10.Z ∧ idle.mix.length = cfg4.B ∧
    ([.rat 1, .draw 3, .rat 0, .rat (-1)] : List Exact).length = cfg4.B ∧ (∀ d, WavesInRange cfg4.lit d cfg4.waves) ∧ voice10.task = none ∧
    ending.Ok cfg4 ∧ ¬ ending.Z ∧ ending.task ≠ none ∧ exhausted.Ok cfg4 ∧ ¬ exhausted.Z ∧
    exhausted.lastStep.val < exhausted.step.val :=
  ⟨cfg4_valid, voice10_ok, voice10_signal, voice10_not_Z, by decide, by decide, defaultWaves_inRange cfg4.lit, rfl, ending_ok, ending_not_Z,
    by simp [ending], exhausted_ok, exhausted_not_Z, by decide⟩

/-- A function of the phase that repeats after 128. -/
theorem witness_PhaseModulus (lit : Literals) (d : Valuation) : ∀ y : ℝ, WaveFn.u.real lit d (y + 128) = WaveFn.u.real lit d y := by
  intro y
  have h : ⌊y + 128⌋ = ⌊y⌋ + 128 := by exact_mod_cast Int.floor_add_natCast y 128
  simp only [WaveFn.u, WaveFn.real, Rat.cast_one, div_one, h]
  push_cast
  ring

end Sys2Proof.Tests
end

section
/-! SUPPORT. What an instruction's run can do, said once (`Ran`), and the fields each kind of instruction leaves alone. -/

namespace Sys2Proof.Machine

/-! ## Kinds of instruction -/

/-- What an instruction may write: nothing, the one-shot slots, the music slots and the song, what a PULL writes, or the bench. -/
inductive Kind where
  | noop
  | oneShot
  | music
  | pull
  | selector

/-- The kind of an instruction (45_voice_mixer.md R279; 30_encoding.md R106, R132). -/
def kindOf : Instr → Kind
  | .nop _ => .noop
  | .sfxStop _ _ => .oneShot
  | .sfxRelease _ _ => .oneShot
  | .sfxPlay _ _ _ _ => .oneShot
  | .sfxReserved _ _ => .oneShot
  | .music _ _ => .music
  | .pull _ => .pull
  | .reservedOp47 _ _ => .noop
  | .reservedOp8F _ _ => .noop
  | .fxNone _ => .selector
  | .fxSlide _ => .selector
  | .fxVibrato _ => .selector
  | .fxDrop _ => .selector
  | .fxFadeIn _ => .selector
  | .fxFadeOut _ => .selector
  | .fxArpFast _ => .selector
  | .fxArpSlow _ => .selector
  | .waveTri _ => .selector
  | .waveTilt _ => .selector
  | .waveSaw _ => .selector
  | .waveSquare _ => .selector
  | .wavePulse _ => .selector
  | .waveOrgan _ => .selector
  | .waveNoise _ => .selector
  | .wavePhaser _ => .selector

/-- Only PULL is of its kind. -/
theorem eq_pull_of_kindOf {i : Instr} (h : kindOf i = .pull) : ∃ x, i = .pull x := by
  cases i <;> cases h
  exact ⟨_, rfl⟩

/-- A word of opcode 0x1 is for the one-shot slots. -/
theorem kindOf_sfxWord {w : Word} (h : w.extractLsb' 28 4 = 0x1#4) : kindOf (decode (.command w)) = .oneShot := by
  have hd : decode (.command w) = decodeSfx w := by simp [decode, decodeCommand, h]
  rw [hd]
  unfold decodeSfx
  dsimp only
  split
  · rfl
  · split
    · rfl
    · split <;> rfl

/-- A word of opcode 0x2 is MUSIC. -/
theorem kindOf_musicWord {w : Word} (h : w.extractLsb' 28 4 = 0x2#4) : kindOf (decode (.command w)) = .music := by
  simp [decode, decodeCommand, h, kindOf]

/-- An effect instruction is a note selector. -/
theorem kindOf_effectInstr (p : PackedNote) : kindOf (effectInstr p) = .selector := by
  obtain ⟨e, f⟩ := p
  cases e <;> rfl

/-- A waveform instruction is a note selector. -/
theorem kindOf_waveInstr (w : Waveform) (custom : Bool) : kindOf (waveInstr w custom) = .selector := by
  cases w <;> rfl

/-- A word that is no command word selects an effect or a waveform (30_encoding.md R132). -/
theorem kindOf_noteWord {w : InstrWord} (h : ∀ v, w ≠ .command v) : kindOf (decode w) = .selector := by
  cases w with
  | command v => exact absurd rfl (h v)
  | noteEffect v => exact kindOf_effectInstr _
  | noteWave v => exact kindOf_waveInstr _ _

/-! ## The cases of a run -/

/-- The runs of an instruction of a kind from state `s`: the operations of the model, one constructor for each. -/
inductive Ran (s : State) : Kind → State → Prop where
  | nothing (k : Kind) : Ran s k s
  | stoppedAll : Ran s .oneShot s.stopAllSfx
  | stopped (k : Fin 4) : Ran s .oneShot (s.setVoice (.sfx k) none)
  | released (k : Fin 4) (v : Voice) (hv : s.sfx[k] = some v) : Ran s .oneShot (s.setVoice (.sfx k) (some v.release))
  | played (n : Fin 64) (ch off len : Int) : Ran s .oneShot (s.sfxPlay n ch off len)
  | started (n : Fin 64) : Ran s .music (s.musicStart n)
  | published (t : State) (ht : s.zeroMix.renderVoices = .ok t) : Ran s .pull t.publish
  | gotStuck (r : StuckReason) : Ran s .pull (s.getStuck r)
  | scheduled (p : PackedNote) : Ran s .selector (s.scheduleOnBench fun v k => v.scheduleNote s.cfg.lit k p)
  | rendered (w : Waveform) : Ran s .selector (s.renderOnBench (oscStep w))

section Runs
variable {s t : State}

theorem ran_sfxStop {ch : Int} {x : BitVec 16} (h : execSfxStop ch x s = .next t) : Ran s .oneShot t := by
  unfold execSfxStop at h
  split at h
  · cases h; exact .stoppedAll
  · split at h
    · cases h; exact .stopped _
    · cases h; exact .nothing _

theorem ran_sfxRelease {ch : Int} {x : BitVec 16} (h : execSfxRelease ch x s = .next t) : Ran s .oneShot t := by
  unfold execSfxRelease at h
  split at h
  · cases h; exact .nothing _
  · split at h
    · next v hv => cases h; exact .released _ v hv
    · cases h; exact .nothing _

theorem ran_sfxPlay {n ch off len : Int} (h : execSfxPlay n ch off len s = .next t) : Ran s .oneShot t := by
  unfold execSfxPlay at h
  split at h
  · cases h; exact .nothing _
  · split at h
    · cases h; exact .played ..
    · cases h; exact .nothing _

theorem ran_music {n : Int} {x : BitVec 20} (h : execMusic n x s = .next t) : Ran s .music t := by
  unfold execMusic at h
  split at h
  · cases h; exact .nothing _
  · cases h; exact .started _

theorem ran_pull {x : BitVec 28} (h : execPull x s = .next t) : Ran s .pull t := by
  obtain ⟨u, hu, he⟩ | ⟨r, -, he⟩ := execPull_cases x s
  · cases he.symm.trans h; exact .published u hu
  · cases he.symm.trans h; exact .gotStuck r

/-- An instruction that answers a next state has run one of the operations of its kind. -/
theorem ran_of_exec {i : Instr} (h : exec i s = .next t) : Ran s (kindOf i) t := by
  cases i with
  | nop _ => cases h; exact .nothing _
  | sfxStop ch x => exact ran_sfxStop (x := x) h
  | sfxRelease ch x => exact ran_sfxRelease (x := x) h
  | sfxPlay _ _ _ _ => exact ran_sfxPlay h
  | sfxReserved _ _ => cases h; exact .nothing _
  | music n x => exact ran_music (x := x) h
  | pull x => exact ran_pull (x := x) h
  | reservedOp47 _ _ => cases h; exact .nothing _
  | reservedOp8F _ _ => cases h; exact .nothing _
  | fxNone note => cases h; exact .scheduled ⟨.none, note⟩
  | fxSlide note => cases h; exact .scheduled ⟨.slide, note⟩
  | fxVibrato note => cases h; exact .scheduled ⟨.vibrato, note⟩
  | fxDrop note => cases h; exact .scheduled ⟨.drop, note⟩
  | fxFadeIn note => cases h; exact .scheduled ⟨.fadeIn, note⟩
  | fxFadeOut note => cases h; exact .scheduled ⟨.fadeOut, note⟩
  | fxArpFast note => cases h; exact .scheduled ⟨.arpFast, note⟩
  | fxArpSlow note => cases h; exact .scheduled ⟨.arpSlow, note⟩
  | waveTri _ => cases h; exact .rendered .triangle
  | waveTilt _ => cases h; exact .rendered .tilted
  | waveSaw _ => cases h; exact .rendered .sawtooth
  | waveSquare _ => cases h; exact .rendered .square
  | wavePulse _ => cases h; exact .rendered .pulse
  | waveOrgan _ => cases h; exact .rendered .organ
  | waveNoise _ => cases h; exact .rendered .noise
  | wavePhaser _ => cases h; exact .rendered .phaser

/-! ## Frames of the runs -/

/-- SFX_PLAY writes the one-shot slots only. -/
theorem sfxPlay_frame (n : Fin 64) (ch off len : Int) :
    s.sfxPlay n ch off len = { s with sfx := (s.sfxPlay n ch off len).sfx } := by
  unfold State.sfxPlay
  dsimp only
  split <;> rfl

/-- A command for the one-shot slots writes them only (10_state.md R36). -/
theorem Ran.oneShot_frame (h : Ran s .oneShot t) : t = { s with sfx := t.sfx } := by
  cases h with
  | nothing => rfl
  | stoppedAll => rfl
  | stopped k => rfl
  | released k v hv => rfl
  | played n ch off len => exact sfxPlay_frame n ch off len

/-- MUSIC writes the music slots and the song only (10_state.md R36). -/
theorem Ran.music_frame (h : Ran s .music t) : t = { s with mus := t.mus, song := t.song } := by
  cases h <;> rfl

/-- A note selector writes the bench and the count of draws only (log 5). -/
theorem Ran.selector_frame (h : Ran s .selector t) : t = { s with bench := t.bench, draws := t.draws } := by
  cases h with
  | nothing => rfl
  | scheduled p =>
    obtain ⟨b, hb⟩ := scheduleOnBench_frame s fun v k => v.scheduleNote s.cfg.lit k p
    rw [hb]
  | rendered w =>
    obtain ⟨b, d, hb⟩ := renderOnBench_frame s (oscStep w)
    rw [hb]

/-- A PULL leaves the configuration, the fault and the tables. -/
theorem Ran.pull_frame (h : Ran s .pull t) : t.cfg = s.cfg ∧ t.fault = s.fault ∧ t.tables = s.tables := by
  cases h with
  | nothing => exact ⟨rfl, rfl, rfl⟩
  | gotStuck r => exact ⟨rfl, rfl, rfl⟩
  | published u hu =>
    refine renderVoices_keeps (s := s.zeroMix) (t := u) (fun u => u.cfg = s.cfg ∧ u.fault = s.fault ∧ u.tables = s.tables) ?_
      (fun _ _ hP _ => hP) (fun _ _ _ hP _ _ => hP) ⟨rfl, rfl, rfl⟩ hu
    rintro u u' slot ⟨hc, hf, ht⟩ hs
    obtain ⟨hc', -, hf', -, ht', -⟩ := updateSlot_frame hs
    exact ⟨hc'.trans hc, hf'.trans hf, ht'.trans ht⟩

/-- No instruction writes the configuration, the fault or the tables (10_state.md R31; 20_memory.md R80). -/
theorem Ran.frame {k : Kind} (h : Ran s k t) : t.cfg = s.cfg ∧ t.fault = s.fault ∧ t.tables = s.tables := by
  cases k with
  | noop => cases h; exact ⟨rfl, rfl, rfl⟩
  | oneShot => rw [h.oneShot_frame]; exact ⟨rfl, rfl, rfl⟩
  | music => rw [h.music_frame]; exact ⟨rfl, rfl, rfl⟩
  | pull => exact h.pull_frame
  | selector => rw [h.selector_frame]; exact ⟨rfl, rfl, rfl⟩

/-- Only a PULL writes the mix buffer, the output and the stuck reason (10_state.md R34, R35). -/
theorem Ran.buffers_frame {k : Kind} (h : Ran s k t) (hk : k ≠ .pull) : t.mix = s.mix ∧ t.out = s.out ∧ t.stuck = s.stuck := by
  cases k with
  | noop => cases h; exact ⟨rfl, rfl, rfl⟩
  | oneShot => rw [h.oneShot_frame]; exact ⟨rfl, rfl, rfl⟩
  | music => rw [h.music_frame]; exact ⟨rfl, rfl, rfl⟩
  | pull => exact absurd rfl hk
  | selector => rw [h.selector_frame]; exact ⟨rfl, rfl, rfl⟩

end Runs

/-! ## What no step may change -/

section Step
variable {s t : State}

/-- A reset leaves the tables. -/
@[simp] theorem applyReset_tables (c : Cfg) (s : State) : (s.applyReset c).tables = s.tables := by
  unfold State.applyReset
  split <;> rfl

/-- The configuration and the fault change only at a reset (10_state.md R31; 60_exceptions.md R311). -/
theorem step_cfg_fault (h : step s = .next t) (hr : ∀ c rest, s.stream ≠ .reset c :: rest) :
    t.cfg = s.cfg ∧ t.fault = s.fault := by
  obtain ⟨-, rfl⟩ | ⟨c, rest, e, -⟩ | ⟨a, b, rest, -, rfl⟩ | ⟨slot, rest, -, -, rfl⟩ | ⟨w, rest, -, -, hx⟩ := step_next h
  · exact ⟨rfl, rfl⟩
  · exact absurd e (hr c rest)
  · exact ⟨rfl, rfl⟩
  · exact ⟨rfl, rfl⟩
  · obtain ⟨hc, hf, -⟩ := (ran_of_exec hx).frame
    exact ⟨hc, hf⟩

/-- The tables change only at an outside write (20_memory.md R80, R96). -/
theorem step_tables (h : step s = .next t) (hw : ∀ a b rest, s.stream ≠ .tableWrite a b :: rest) : t.tables = s.tables := by
  obtain ⟨-, rfl⟩ | ⟨c, rest, -, rfl⟩ | ⟨a, b, rest, e, -⟩ | ⟨slot, rest, -, -, rfl⟩ | ⟨w, rest, -, -, hx⟩ := step_next h
  · rfl
  · simp
  · exact absurd e (hw a b rest)
  · rfl
  · exact (ran_of_exec hx).frame.2.2

/-- An outside write changes the byte written and nothing else (20_memory.md R96). -/
theorem step_tableWrite {a : Addr} {b : Byte} {rest : List Input} (h : step s = .next t)
    (e : s.stream = .tableWrite a b :: rest) : t = { s with stream := rest, tables := memWrite s.tables a b } := by
  simp only [step, State.pending, e, Host.Outcome.next.injEq] at h
  exact h.symm

/-- An instruction word at the head of the stream is run on the rest of it. -/
theorem step_issue {w : InstrWord} {rest : List Input} (h : step s = .next t) (e : s.stream = .issue w :: rest) :
    Ran { s with stream := rest } (kindOf (decode w)) t := by
  obtain ⟨e', -⟩ | ⟨_, _, e', -⟩ | ⟨_, _, _, e', -⟩ | ⟨_, _, e', -, -⟩ | ⟨w', rest', e', -, hx⟩ := step_next h <;>
    cases e.symm.trans e'
  exact ran_of_exec hx

/-- The buffers and the stuck reason change only at a PULL or a reset (10_state.md R34, R35). -/
theorem step_buffers (h : step s = .next t) (hr : ∀ c rest, s.stream ≠ .reset c :: rest)
    (hp : ∀ w rest x, s.stream = .issue w :: rest → decode w ≠ .pull x) : t.mix = s.mix ∧ t.out = s.out ∧ t.stuck = s.stuck := by
  obtain ⟨-, rfl⟩ | ⟨c, rest, e, -⟩ | ⟨a, b, rest, -, rfl⟩ | ⟨slot, rest, -, -, rfl⟩ | ⟨w, rest, e, -, hx⟩ := step_next h
  · exact ⟨rfl, rfl, rfl⟩
  · exact absurd e (hr c rest)
  · exact ⟨rfl, rfl, rfl⟩
  · exact ⟨rfl, rfl, rfl⟩
  · refine (ran_of_exec hx).buffers_frame fun hk => ?_
    obtain ⟨x, hx⟩ := eq_pull_of_kindOf hk
    exact hp w rest x e hx

/-- The slots and the song change only at a command or a reset (10_state.md R36). -/
theorem step_slots (h : step s = .next t) (hr : ∀ c rest, s.stream ≠ .reset c :: rest)
    (hc : ∀ w rest, s.stream ≠ .issue (.command w) :: rest) : t.sfx = s.sfx ∧ t.mus = s.mus ∧ t.song = s.song := by
  obtain ⟨-, rfl⟩ | ⟨c, rest, e, -⟩ | ⟨a, b, rest, -, rfl⟩ | ⟨slot, rest, -, -, rfl⟩ | ⟨w, rest, e, -, hx⟩ := step_next h
  · exact ⟨rfl, rfl, rfl⟩
  · exact absurd e (hr c rest)
  · exact ⟨rfl, rfl, rfl⟩
  · exact ⟨rfl, rfl, rfl⟩
  · have hk : kindOf (decode w) = .selector := kindOf_noteWord fun v hv => hc v rest (hv ▸ e)
    have hran := ran_of_exec hx
    rw [hk] at hran
    rw [hran.selector_frame]
    exact ⟨rfl, rfl, rfl⟩

end Step

/-- Settles O58, clause by clause from the frames of the runs. -/
theorem wholeMachineFrame : Obligations.WholeMachineFrame := by
  intro s t h
  refine ⟨step_cfg_fault h, step_tables h, fun a b rest e hwf => ?_, step_buffers h, step_slots h, fun w rest e hop => ?_,
    fun w rest e hop => ?_⟩
  · obtain rfl := step_tableWrite h e
    refine ⟨rfl, ?_, fun a' ha' => ?_⟩
    · rw [memRead_memWrite hwf, if_pos rfl]
    · rw [memRead_memWrite hwf, if_neg ha']
  · have hran := step_issue h e
    rw [kindOf_sfxWord hop] at hran
    exact hran.oneShot_frame
  · have hran := step_issue h e
    rw [kindOf_musicWord hop] at hran
    exact hran.music_frame

end Sys2Proof.Machine
end

section
/-! SUPPORT. Voices in range: what scheduling, rendering and update() keep of one voice, and how a property of every voice
passes through the slot operations. -/

namespace Sys2Proof.Machine

/-! ## A property of every voice in a slot -/

/-- Every voice in a slot has the property `P`. -/
def State.AllVoices (s : State) (P : Voice → Prop) : Prop := ∀ slot v, s.voice slot = some v → P v

section AllVoices
variable {P : Voice → Prop} {s : State}

theorem allVoices_iff :
    s.AllVoices P ↔ (∀ (k : Fin 4) (v : Voice), s.sfx[k] = some v → P v) ∧ ∀ (k : Fin 4) (v : Voice), s.mus[k] = some v → P v := by
  constructor
  · intro h
    exact ⟨fun k => h (.sfx k), fun k => h (.mus k)⟩
  · rintro ⟨hsfx, hmus⟩ (k | k)
    · exact hsfx k
    · exact hmus k

theorem allVoices_setVoice (h : s.AllVoices P) (slot : SlotId) {o : Option Voice} (ho : ∀ v, o = some v → P v) :
    (s.setVoice slot o).AllVoices P := by
  intro slot' v hv
  rw [voice_setVoice] at hv
  split at hv
  · exact ho v hv
  · exact h slot' v hv

theorem allVoices_emptySlot (h : s.AllVoices P) (slot : SlotId) : (s.setVoice slot none).AllVoices P :=
  allVoices_setVoice h slot fun _ hv => nomatch hv

/-- The voices that exclusivity leaves are those of another instrument (45_voice_mixer.md R276). -/
theorem sfx_stopInstrument {n : Fin 64} {k : Fin 4} {v : Voice} :
    (s.stopInstrument n).sfx[k] = some v ↔ s.sfx[k] = some v ∧ v.instrIdx ≠ n := by
  have he : (s.stopInstrument n).sfx[k] = exceptInstrument n s.sfx[k] := by simp
  rw [he]
  rcases s.sfx[k] with _ | u
  · simp [exceptInstrument]
  · by_cases hu : u.instrIdx = n
    · simp only [exceptInstrument, hu, if_true, reduceCtorEq, Option.some.injEq, false_iff]
      rintro ⟨rfl, hne⟩
      exact hne hu
    · simp only [exceptInstrument, hu, if_false, Option.some.injEq]
      constructor
      · rintro rfl
        exact ⟨rfl, hu⟩
      · exact And.left

/-- SFX_PLAY after its validation: the stop-first step, then at most one fresh voice in a one-shot slot. -/
theorem sfxPlay_cases (s : State) (n : Fin 64) (ch off len : Int) :
    s.sfxPlay n ch off len = s.stopInstrument n ∨
    ∃ k, s.sfxPlay n ch off len = (s.stopInstrument n).setVoice (.sfx k) (some (s.startVoice n off len 0)) := by
  unfold State.sfxPlay
  dsimp only
  rcases (s.stopInstrument n).resolveChannel ch with _ | k
  · exact .inl rfl
  · exact .inr ⟨k, rfl⟩

/-- What setUpPattern puts into a music slot is a fresh voice. -/
theorem patternVoice_eq_some {r : PatternRec} {c : Nat} {k : Fin 4} {v : Voice} (h : s.patternVoice r c k = some v) :
    ∃ n, v = s.startVoice n 0 s.cfg.lit.defaultLength c := by
  unfold State.patternVoice at h
  split at h
  · cases h
  · exact ⟨_, (Option.some.inj h).symm⟩

theorem mus_setUpPattern {p : Fin 64} {k : Fin 4} {v : Voice} (h : (s.setUpPattern p).mus[k] = some v) :
    ∃ n, v = s.startVoice n 0 s.cfg.lit.defaultLength s.carriedCursor :=
  patternVoice_eq_some (r := s.decodePattern p) (k := k) (by simpa using h)

theorem allVoices_stopInstrument (h : s.AllVoices P) (n : Fin 64) : (s.stopInstrument n).AllVoices P := by
  obtain ⟨hsfx, hmus⟩ := allVoices_iff.mp h
  exact allVoices_iff.mpr ⟨fun k v hv => hsfx k v (sfx_stopInstrument.mp hv).1, hmus⟩

theorem allVoices_stopAllSfx (h : s.AllVoices P) : s.stopAllSfx.AllVoices P :=
  allVoices_iff.mpr ⟨fun k v hv => by simp at hv, (allVoices_iff.mp h).2⟩

theorem allVoices_enterStopped (h : s.AllVoices P) : s.enterStopped.AllVoices P :=
  allVoices_iff.mpr ⟨(allVoices_iff.mp h).1, fun k v hv => by simp at hv⟩

theorem allVoices_clear (P : Voice → Prop) (s : State) : s.clear.AllVoices P :=
  allVoices_iff.mpr ⟨fun k v hv => by simp at hv, fun k v hv => by simp at hv⟩

theorem allVoices_sfxPlay (h : s.AllVoices P) (n : Fin 64) (ch off len : Int) (hfresh : P (s.startVoice n off len 0)) :
    (s.sfxPlay n ch off len).AllVoices P := by
  obtain he | ⟨k, he⟩ := sfxPlay_cases s n ch off len
  · rw [he]
    exact allVoices_stopInstrument h n
  · rw [he]
    refine allVoices_setVoice (allVoices_stopInstrument h n) _ fun v hv => ?_
    cases hv
    exact hfresh

theorem allVoices_setUpPattern (h : s.AllVoices P) (p : Fin 64)
    (hfresh : ∀ n, P (s.startVoice n 0 s.cfg.lit.defaultLength s.carriedCursor)) : (s.setUpPattern p).AllVoices P := by
  refine allVoices_iff.mpr ⟨(allVoices_iff.mp h).1, fun k v hv => ?_⟩
  obtain ⟨n, rfl⟩ := mus_setUpPattern hv
  exact hfresh n

end AllVoices

/-! ## Scheduling -/

/-- The pending fade-in that effect 5 leaves is at least 0 (43_step_sequencer.md R210). -/
theorem fadeOutPending_nonneg {lit : Literals} {v : Voice} {q : Rat} (h : v.fadeOutPending lit = some q) : 0 ≤ q := by
  unfold Voice.fadeOutPending at h
  split at h
  · cases h
  · cases h
    exact Rat.div_nonneg (toRat_nonneg _) (noteTime_nonneg _ _)

/-- A scheduled task is in range when its policy's fades and the pending fade are (10_state.md R50). -/
theorem taskOf_ok {v : Voice} (hv : ∀ q, v.pendFade = some q → 0 ≤ q) (note : NoteFields) {p : Policy}
    (hin : 0 ≤ p.fadeIn) (hout : 0 ≤ p.fadeOut) : (v.taskOf note p).Ok v.instr.speed where
  vol_nonneg := Rat.div_nonneg (by exact_mod_cast Nat.zero_le _) (by norm_num)
  vol_le_one := by
    have h7 : note.volume.val ≤ 7 := by omega
    have h7' : (note.volume.val : Rat) ≤ 7 := by exact_mod_cast h7
    exact (div_le_one (by norm_num)).mpr h7'
  fadeIn_nonneg := by
    rcases hq : v.pendFade with _ | q
    · simpa [Voice.taskOf, hq] using hin
    · simpa [Voice.taskOf, hq] using hv q hq
  fadeOut_nonneg := hout
  same_speed := rfl

/-- What every effect's rule queues is in range, and so is the pending fade it leaves (10_state.md R48, R50). -/
theorem scheduleNote_ok (lit : Literals) (v : Voice) (k : Fin 32) (p : PackedNote) (hv : ∀ q, v.pendFade = some q → 0 ≤ q) :
    (∀ t, (v.scheduleNote lit k p).task = some t → t.Ok v.instr.speed) ∧
      ∀ q, (v.scheduleNote lit k p).pendFade = some q → 0 ≤ q := by
  obtain ⟨pol, pend, he, hpend, hin, hout⟩ := scheduleNote_is lit v k p
  rw [he]
  constructor
  · intro t ht
    cases ht
    exact taskOf_ok hv _ hin hout
  · intro q hq
    obtain rfl | rfl := hpend
    · cases hq
    · exact fadeOutPending_nonneg hq

theorem voiceOk_schedule {cfg : Cfg} {v : Voice} (hv : v.Ok cfg) (k : Fin 32) : (v.schedule cfg.lit k).Ok cfg where
  is_alive := by simpa using hv.is_alive
  is_active := by simpa using hv.is_active
  cursor_lt := by simpa using hv.cursor_lt
  task_ok := by
    rw [schedule_instr]
    exact (scheduleNote_ok cfg.lit v k v.instr.notes[k] hv.pend_nonneg).1
  pend_nonneg := (scheduleNote_ok cfg.lit v k v.instr.notes[k] hv.pend_nonneg).2
  rng_named := by simpa using hv.rng_named

/-- A fresh voice whose cursor is in the buffer is in range (43_step_sequencer.md R201). -/
theorem voiceOk_startVoice (s : State) (n : Fin 64) (off len : Int) {c : Nat} (hc : c < s.cfg.B) :
    (s.startVoice n off len c).Ok s.cfg where
  is_alive := rfl
  is_active := rfl
  cursor_lt := hc
  task_ok := fun _ ht => nomatch ht
  pend_nonneg := fun _ hq => nomatch hq
  rng_named := by
    simp only [State.startVoice, freshOsc]
    cases s.cfg.noise <;> simp [NoiseSource.seed]

theorem voiceOk_release {cfg : Cfg} {v : Voice} (hv : v.Ok cfg) : v.release.Ok cfg where
  is_alive := hv.is_alive
  is_active := hv.is_active
  cursor_lt := hv.cursor_lt
  task_ok := hv.task_ok
  pend_nonneg := hv.pend_nonneg
  rng_named := hv.rng_named

/-! ## Rendering -/

/-- An oscillator step keeps whether a generator is named (10_state.md R51). -/
theorem oscStep_rng_isSome (w : Waveform) (cfg : Cfg) (f : Exact) (o : OscState) (d : Nat) :
    (oscStep w cfg f o d).osc.rng.isSome = o.rng.isSome := by
  have hdraw : ∀ r : Option (BitVec 32), (drawNoise r d).rng.isSome = r.isSome := by
    rintro (_ | x) <;> rfl
  cases w
  case noise => exact hdraw o.rng
  all_goals rfl

theorem renderSample_rng_isSome (w : Waveform) (cfg : Cfg) (active : Bool) (task : RenderTask) (o : OscState) (d : Nat) (m : Exact) :
    (renderSample (oscStep w) cfg active task o d m).osc.rng.isSome = o.rng.isSome := by
  unfold renderSample
  split
  · exact oscStep_rng_isSome ..
  · rfl

/-- A task's ranges do not speak of its sample count. -/
theorem taskOk_at {speed : Fin 256} {t : RenderTask} (h : t.Ok speed) (n : Nat) : ({ t with n := n } : RenderTask).Ok speed where
  vol_nonneg := h.vol_nonneg
  vol_le_one := h.vol_le_one
  fadeIn_nonneg := h.fadeIn_nonneg
  fadeOut_nonneg := h.fadeOut_nonneg
  same_speed := h.same_speed

/-- What the samples of an incomplete task keep of the oscillator, the process operation keeps. -/
theorem processTask_osc {cfg : Cfg} {active : Bool} (Q : OscState → Prop)
    (hstep : ∀ (task : RenderTask) (o : OscState) (d : Nat) (m : Exact), task.complete cfg = false → Q o →
      Q (renderSample (oscStep task.wave) cfg active task o d m).osc)
    (cursor : Nat) (mix : List Exact) (task : RenderTask) {o : OscState} (d : Nat) (h : Q o) :
    Q (processTask cfg active cursor mix task o d).osc :=
  renderFrom_osc cfg active Q hstep (mix.drop cursor) task o d h

/-! ## update() -/

section Update
variable {cfg : Cfg} {v v' : Voice} {mix mix' : List Exact} {d d' : Nat}

/-- A pass with a task, at whichever end, leaves the voice in range, its instrument and the buffer's length. -/
theorem voiceOk_runTask {b : Bool} {t : RenderTask} (hv : v.Ok cfg) (hl : mix.length = cfg.B) (ht : v.task = some t)
    (h : v.runTask cfg t mix d = (b, v', mix', d')) : v'.Ok cfg ∧ v'.instrIdx = v.instrIdx ∧ mix'.length = cfg.B := by
  have hrng : (processTask cfg v.active v.cursor mix t v.osc d).osc.rng.isSome = true ↔ cfg.noise = .referenceLfsr :=
    processTask_osc (fun o => o.rng.isSome = true ↔ cfg.noise = .referenceLfsr)
      (fun _ _ _ _ _ ho => by rwa [renderSample_rng_isSome]) _ _ _ _ hv.rng_named
  cases b with
  | true =>
    obtain ⟨hlt, rfl, rfl, -⟩ := runTask_true h
    refine ⟨?_, rfl, by rw [processTask_length, hl]⟩
    exact ⟨hv.is_alive, hv.is_active, hlt, (fun _ hn => nomatch hn), hv.pend_nonneg, hrng⟩
  | false =>
    obtain ⟨-, rfl, rfl, -⟩ := runTask_false h
    have hB : 0 < cfg.B := Nat.zero_lt_of_lt hv.cursor_lt
    refine ⟨⟨hv.is_alive, hv.is_active, hB, fun t' ht' => ?_, hv.pend_nonneg, hrng⟩, rfl, by rw [processTask_length, hl]⟩
    cases ht'
    rw [processTask_task]
    exact taskOk_at (hv.task_ok t ht) _

/-- An update that ends is its loop. -/
theorem updateVoice_eq_updateLoop (h : updateVoice cfg v mix d ≠ .endless) :
    updateVoice cfg v mix d = updateLoop cfg (updateFuel cfg) v mix d := by
  rcases he : v.endlessLoop
  · exact updateVoice_of_not_endless he
  · exact absurd (by simp [updateVoice, he]) h

section Ends
variable {P : Voice → List Exact → Nat → Prop}
  (hsched : ∀ v mix d k, P v mix d → v.cursor < cfg.B → v.task = none → v.playable = some k → P (v.schedule cfg.lit k) mix d)
  (hpop : ∀ v mix d t v' mix' d', P v mix d → v.cursor < cfg.B → v.task = some t →
    v.runTask cfg t mix d = (true, v', mix', d') → P v' mix' d')
  (hP : P v mix d) (hc : v.cursor < cfg.B)
include hsched hpop hP hc

/-- An update that leaves the voice alive ended with a pass that reached the buffer end. -/
theorem updateVoice_alive (h : updateVoice cfg v mix d = .alive v' mix' d') :
    ∃ v0 mix0 d0 t, P v0 mix0 d0 ∧ v0.task = some t ∧ v0.runTask cfg t mix0 d0 = (false, v', mix', d') := by
  have hend := updateLoop_ends cfg P hsched hpop (updateFuel cfg) v mix d hP hc
  rw [← updateVoice_eq_updateLoop (by simp [h]), h] at hend
  obtain ⟨v0, mix0, d0, t, hP0, -, ht, hr⟩ := hend
  exact ⟨v0, mix0, d0, t, hP0, ht, hr⟩

/-- An update in which the voice died ended with the voice exhausted inside the buffer. -/
theorem updateVoice_died (h : updateVoice cfg v mix d = .died v' mix' d') :
    ∃ v0, P v0 mix' d' ∧ v0.cursor < cfg.B ∧ v' = v0.die := by
  have hend := updateLoop_ends cfg P hsched hpop (updateFuel cfg) v mix d hP hc
  rw [← updateVoice_eq_updateLoop (by simp [h]), h] at hend
  obtain ⟨v0, hP0, hc0, -, -, rfl⟩ := hend
  exact ⟨v0, hP0, hc0, rfl⟩

end Ends

/-- What the passes of one update keep: the voice in range, its instrument and the buffer's length. -/
def PassKeeps (cfg : Cfg) (n : Fin 64) (v : Voice) (mix : List Exact) (_ : Nat) : Prop :=
  v.Ok cfg ∧ v.instrIdx = n ∧ mix.length = cfg.B

theorem passKeeps_schedule {n : Fin 64} {k : Fin 32} (h : PassKeeps cfg n v mix d) :
    PassKeeps cfg n (v.schedule cfg.lit k) mix d := by
  obtain ⟨hv, hi, hl⟩ := h
  exact ⟨voiceOk_schedule hv k, by simpa using hi, hl⟩

theorem passKeeps_runTask {n : Fin 64} {b : Bool} {t : RenderTask} (h : PassKeeps cfg n v mix d) (ht : v.task = some t)
    (hr : v.runTask cfg t mix d = (b, v', mix', d')) : PassKeeps cfg n v' mix' d' := by
  obtain ⟨hv, hi, hl⟩ := h
  obtain ⟨hv', hi', hl'⟩ := voiceOk_runTask hv hl ht hr
  exact ⟨hv', hi'.trans hi, hl'⟩

/-- A voice that lives on is in range, of the same instrument (10_state.md R37, R46, R50). -/
theorem updateVoice_alive_ok (hv : v.Ok cfg) (hl : mix.length = cfg.B) (h : updateVoice cfg v mix d = .alive v' mix' d') :
    v'.Ok cfg ∧ v'.instrIdx = v.instrIdx ∧ mix'.length = cfg.B := by
  obtain ⟨v0, mix0, d0, t, hP, ht, hr⟩ := updateVoice_alive (P := PassKeeps cfg v.instrIdx)
    (fun _ _ _ _ hP _ _ _ => passKeeps_schedule hP) (fun _ _ _ _ _ _ _ hP _ ht hr => passKeeps_runTask hP ht hr)
    ⟨hv, rfl, hl⟩ hv.cursor_lt h
  exact passKeeps_runTask hP ht hr

/-- A voice dies with its cursor inside the buffer (44_pattern_sequencer.md R246). -/
theorem updateVoice_died_ok (hv : v.Ok cfg) (hl : mix.length = cfg.B) (h : updateVoice cfg v mix d = .died v' mix' d') :
    v'.cursor < cfg.B ∧ mix'.length = cfg.B := by
  obtain ⟨v0, ⟨-, -, hl'⟩, hc, rfl⟩ := updateVoice_died (P := PassKeeps cfg v.instrIdx)
    (fun _ _ _ _ hP _ _ _ => passKeeps_schedule hP) (fun _ _ _ _ _ _ _ hP _ ht hr => passKeeps_runTask hP ht hr)
    ⟨hv, rfl, hl⟩ hv.cursor_lt h
  exact ⟨hc, hl'⟩

/-- The update of a voice whose cursor is at the buffer end leaves the voice as it is. -/
theorem updateVoice_alive_of_full (hc : ¬ v.cursor < cfg.B) (h : updateVoice cfg v mix d = .alive v' mix' d') : v' = v := by
  rw [updateVoice_eq_updateLoop (by simp [h]), updateFuel, updateLoop, if_neg hc] at h
  cases h
  rfl

/-- What the samples of an incomplete task keep of the oscillator, the update of a voice keeps. -/
theorem updateVoice_osc (Q : OscState → Prop)
    (hstep : ∀ (active : Bool) (task : RenderTask) (o : OscState) (d : Nat) (m : Exact), task.complete cfg = false → Q o →
      Q (renderSample (oscStep task.wave) cfg active task o d m).osc)
    (hQ : Q v.osc) (h : updateVoice cfg v mix d = .alive v' mix' d') : Q v'.osc := by
  by_cases hc : v.cursor < cfg.B
  · have hprocess : ∀ (v : Voice) (mix : List Exact) (t : RenderTask) (d : Nat), Q v.osc →
        Q (processTask cfg v.active v.cursor mix t v.osc d).osc :=
      fun v mix t d => processTask_osc Q (hstep v.active) v.cursor mix t d
    obtain ⟨v0, mix0, d0, t, hQ0, -, hr⟩ := updateVoice_alive (P := fun v _ _ => Q v.osc)
      (fun _ _ _ _ hQ _ _ _ => by simpa using hQ)
      (fun v mix d t v' mix' d' hQ _ _ hr => by
        obtain ⟨-, rfl, -, -⟩ := runTask_true hr
        exact hprocess v mix t d hQ)
      hQ hc h
    obtain ⟨-, rfl, -, -⟩ := runTask_false hr
    exact hprocess v0 mix0 t d0 hQ0
  · rw [updateVoice_alive_of_full hc h]
    exact hQ

end Update

/-! ## The bench (log 5) -/

/-- A scheduling on the bench does nothing, or the bench voice schedules its step. -/
theorem scheduleOnBench_cases (s : State) (rule : Voice → Fin 32 → Voice) :
    s.scheduleOnBench rule = s ∨
    ∃ b k, s.bench = some b ∧ s.scheduleOnBench rule = { s with bench := some { b with voice := rule b.voice k } } := by
  unfold State.scheduleOnBench
  rcases hb : s.bench with _ | b
  · exact .inl rfl
  · dsimp only
    split
    · next k _ _ => exact .inr ⟨b, k, rfl, rfl⟩
    · exact .inl rfl
    · exact .inl rfl

/-- A sample on the bench does nothing, or the bench voice renders one sample of its incomplete task. -/
theorem renderOnBench_cases (s : State) (step : OscFn) :
    s.renderOnBench step = s ∨
    ∃ b task m x, s.CanRender b task m ∧ task.complete s.cfg = false ∧
      x = renderSample step s.cfg b.voice.active task b.voice.osc s.draws m ∧
      s.renderOnBench step = s.afterRender b task x.mixed x.osc x.draws := by
  unfold State.renderOnBench
  rcases hb : s.bench with _ | b
  · exact .inl rfl
  · dsimp only
    split
    · next task m ht hm =>
      split
      · exact .inl rfl
      · next hc =>
        have hn : ¬ task.speed.val * s.cfg.rate ≤ task.n * s.cfg.lit.speedDiv := by simpa [RenderTask.complete] using hc
        exact .inr ⟨b, task, m, _, ⟨hb, ht, hm, not_le.mp hn⟩, by simpa using hc, rfl, rfl⟩
    · exact .inl rfl
    · exact .inl rfl
    · exact .inl rfl

/-- A voice in range makes a bench in range. -/
theorem benchOk_benchOf {cfg : Cfg} {v : Voice} (hv : v.Ok cfg) : (benchOf cfg v).Ok cfg where
  mix_length := List.length_replicate
  cursor_le := hv.cursor_lt.le
  task_ok := hv.task_ok
  pend_nonneg := hv.pend_nonneg
  rng_named := hv.rng_named

theorem benchOk_scheduleNote {cfg : Cfg} {b : Bench} (hb : b.Ok cfg) (k : Fin 32) (p : PackedNote) :
    ({ b with voice := b.voice.scheduleNote cfg.lit k p } : Bench).Ok cfg := by
  obtain ⟨ht, hq⟩ := scheduleNote_ok cfg.lit b.voice k p hb.pend_nonneg
  obtain ⟨pol, pend, he, -⟩ := scheduleNote_is cfg.lit b.voice k p
  rw [he] at ht hq ⊢
  exact ⟨hb.mix_length, hb.cursor_le, ht, hq, hb.rng_named⟩

theorem benchOk_afterSample {s : State} {b : Bench} {task : RenderTask} {m : Exact} {o : OscState} (hb : b.Ok s.cfg)
    (hr : s.CanRender b task m) (ho : o.rng.isSome = b.voice.osc.rng.isSome) (mixed : Exact) :
    ({ voice := b.voice.afterSample task o, mix := b.mix.set b.voice.cursor mixed } : Bench).Ok s.cfg := by
  obtain ⟨hlt, -⟩ := List.getElem?_eq_some_iff.mp hr.at_cursor
  exact
    { mix_length := by rw [List.length_set, hb.mix_length]
      cursor_le := hb.mix_length ▸ hlt
      task_ok := fun t ht => by
        cases ht
        exact taskOk_at (hb.task_ok task hr.queued) _
      pend_nonneg := hb.pend_nonneg
      rng_named := (congrArg (· = true) ho).to_iff.trans hb.rng_named }

end Sys2Proof.Machine
end

section
/-! SUPPORT. What keeps a block `Running`: one lemma for each operation of a run, the PULL, and the reset. -/

namespace Sys2Proof.Machine

section Running
variable {s t : State}

/-! ## What the invariant gives -/

theorem State.Running.zero_lt_B (hs : s.Running) : 0 < s.cfg.B := by
  obtain ⟨-, hb⟩ := hs.cfg_valid
  unfold Cfg.B
  omega

/-- A pattern set-up never carries a cursor outside the buffer (44_pattern_sequencer.md R242). -/
theorem State.Running.carriedCursor_lt (hs : s.Running) : s.carriedCursor < s.cfg.B := by
  unfold State.carriedCursor
  rcases hr : s.song.ref with _ | k | c
  · exact hs.zero_lt_B
  · obtain ⟨v, hv⟩ := Option.isSome_iff_exists.mp (hs.song_ok.live_ref k hr)
    simp only [State.musCursor, hv]
    exact (hs.voices_ok (.mus k) v hv).cursor_lt
  · exact hs.song_ok.dead_ref c hr

/-! ## What does not disturb it -/

/-- `Running` does not speak of the tables, the stream, the draws, `fault` and `stuck`, nor of the samples in the buffers. -/
theorem State.Running.congr (hs : s.Running) (hcfg : t.cfg = s.cfg) (hmix : t.mix.length = s.cfg.B) (hout : t.out.length = s.cfg.B)
    (hsfx : t.sfx = s.sfx) (hmus : t.mus = s.mus) (hsong : t.song = s.song) (hbench : ∀ b, t.bench = some b → b.Ok s.cfg) :
    t.Running where
  cfg_valid := hcfg ▸ hs.cfg_valid
  mix_length := hcfg ▸ hmix
  out_length := hcfg ▸ hout
  voices_ok := by
    rintro (k | k) v hv
    · rw [voice_sfx, hsfx] at hv
      exact hcfg ▸ hs.voices_ok (.sfx k) v hv
    · rw [voice_mus, hmus] at hv
      exact hcfg ▸ hs.voices_ok (.mus k) v hv
  exclusive := by
    intro j k v w hv hw
    rw [hsfx] at hv hw
    exact hs.exclusive j k v w hv hw
  song_ok :=
    { live_ref := by rw [hsong, hmus]; exact hs.song_ok.live_ref
      dead_ref := by rw [hsong, hcfg]; exact hs.song_ok.dead_ref
      stopped_silent := by rw [hsong, hmus]; exact hs.song_ok.stopped_silent }
  bench_ok := hcfg ▸ hbench

/-- The rendering of a PULL may leave any samples in the buffer. -/
theorem State.Running.render (hs : s.Running) {mix : List Exact} (hl : mix.length = s.cfg.B) (d : Nat) :
    ({ s with mix := mix, draws := d } : State).Running :=
  hs.congr rfl hl hs.out_length rfl rfl rfl hs.bench_ok

theorem State.Running.bench (hs : s.Running) (bench : Option Bench) (d : Nat) (hb : ∀ b, bench = some b → b.Ok s.cfg) :
    ({ s with bench := bench, draws := d } : State).Running :=
  hs.congr rfl hs.mix_length hs.out_length rfl rfl rfl hb

/-! ## The one-shot slots -/

/-- One-shot slots in range that keep exclusivity keep the block `Running`. -/
theorem State.Running.setSfx (hs : s.Running) {sfx : Vector (Option Voice) 4} (hok : ∀ (k : Fin 4) v, sfx[k] = some v → v.Ok s.cfg)
    (hx : ({ s with sfx := sfx } : State).Exclusive) : ({ s with sfx := sfx } : State).Running where
  cfg_valid := hs.cfg_valid
  mix_length := hs.mix_length
  out_length := hs.out_length
  voices_ok := allVoices_iff.mpr ⟨hok, fun k => hs.voices_ok (.mus k)⟩
  exclusive := hx
  song_ok := ⟨hs.song_ok.live_ref, hs.song_ok.dead_ref, hs.song_ok.stopped_silent⟩
  bench_ok := hs.bench_ok

/-- Exclusivity holds of slots whose voices have the instruments of voices that stood in the same slots. -/
theorem exclusive_of_sameInstr (hx : s.Exclusive)
    (h : ∀ (k : Fin 4) v, t.sfx[k] = some v → ∃ u, s.sfx[k] = some u ∧ v.instrIdx = u.instrIdx) : t.Exclusive := by
  intro j k v w hv hw he
  obtain ⟨v0, hv0, ev⟩ := h j v hv
  obtain ⟨w0, hw0, ew⟩ := h k w hw
  exact hx j k v0 w0 hv0 hw0 (ev.symm.trans (he.trans ew))

theorem State.Running.stopAllSfx (hs : s.Running) : s.stopAllSfx.Running :=
  hs.setSfx (fun k v hv => by simp at hv) (fun j k v w hv => by simp at hv)

theorem State.Running.stopInstrument (hs : s.Running) (n : Fin 64) : (s.stopInstrument n).Running :=
  hs.setSfx (fun k v hv => hs.voices_ok (.sfx k) v (sfx_stopInstrument.mp hv).1)
    (exclusive_of_sameInstr hs.exclusive fun _ v hv => ⟨v, (sfx_stopInstrument.mp hv).1, rfl⟩)

/-- A voice of an instrument that no one-shot slot holds may be put into a one-shot slot (45_voice_mixer.md R277). -/
theorem State.Running.fillSfx (hs : s.Running) (k : Fin 4) {v : Voice} (hv : v.Ok s.cfg)
    (hfree : ∀ (j : Fin 4) w, s.sfx[j] = some w → w.instrIdx ≠ v.instrIdx) : (s.setVoice (.sfx k) (some v)).Running := by
  have hslot : ∀ (j : Fin 4) w, (s.setVoice (.sfx k) (some v)).sfx[j] = some w → (j = k ∧ w = v) ∨ s.sfx[j] = some w := by
    intro j w hw
    rw [← voice_sfx, voice_setVoice] at hw
    split at hw
    · next he => exact .inl ⟨(SlotId.sfx.inj he).symm, (Option.some.inj hw).symm⟩
    · exact .inr hw
  refine hs.setSfx (fun j w hw => ?_) (fun i j u w hu hw he => ?_)
  · obtain ⟨-, rfl⟩ | hw := hslot j w hw
    · exact hv
    · exact hs.voices_ok (.sfx j) w hw
  · obtain ⟨rfl, rfl⟩ | hu' := hslot i u hu
    · obtain ⟨rfl, -⟩ | hw' := hslot j w hw
      · rfl
      · exact absurd he.symm (hfree j w hw')
    · obtain ⟨rfl, rfl⟩ | hw' := hslot j w hw
      · exact absurd he (hfree i u hu')
      · exact hs.exclusive i j u w hu' hw' he

theorem State.Running.sfxPlay (hs : s.Running) (n : Fin 64) (ch off len : Int) : (s.sfxPlay n ch off len).Running := by
  obtain he | ⟨k, he⟩ := sfxPlay_cases s n ch off len
  · rw [he]
    exact hs.stopInstrument n
  · rw [he]
    exact (hs.stopInstrument n).fillSfx k (voiceOk_startVoice s n off len hs.zero_lt_B)
      fun j w hw => (sfx_stopInstrument.mp hw).2

/-! ## One slot -/

/-- A voice may give way to one in range of the same instrument. -/
theorem State.Running.replaceVoice (hs : s.Running) {slot : SlotId} {v v' : Voice} (hv : s.voice slot = some v) (hok : v'.Ok s.cfg)
    (hi : v'.instrIdx = v.instrIdx) : (s.setVoice slot (some v')).Running where
  cfg_valid := by simpa using hs.cfg_valid
  mix_length := by simpa using hs.mix_length
  out_length := by simpa using hs.out_length
  voices_ok := by
    rw [setVoice_cfg]
    refine allVoices_setVoice hs.voices_ok slot fun w hw => ?_
    cases hw
    exact hok
  exclusive := by
    refine exclusive_of_sameInstr hs.exclusive fun k w hw => ?_
    rw [← voice_sfx, voice_setVoice] at hw
    split at hw
    · next he =>
      subst he
      cases hw
      exact ⟨v, hv, hi⟩
    · exact ⟨w, hw, rfl⟩
  song_ok :=
    { live_ref := by
        intro k hk
        rw [← voice_mus, voice_setVoice]
        split
        · rfl
        · exact hs.song_ok.live_ref k (by simpa using hk)
      dead_ref := by simpa using hs.song_ok.dead_ref
      stopped_silent := by
        intro hm k
        have hsilent := hs.song_ok.stopped_silent (by simpa using hm) k
        rw [← voice_mus, voice_setVoice, if_neg, voice_mus, hsilent]
        rintro rfl
        cases hsilent.symm.trans hv }
  bench_ok := by simpa using hs.bench_ok

/-- After a voice died, a live reference names another slot; a dead one has the old cursor or the voice's. -/
theorem refAfterDeath_eq_live {ref : RefVoice} {slot : SlotId} {c : Nat} {k : Fin 4} (h : refAfterDeath ref slot c = .live k) :
    ref = .live k ∧ slot ≠ .mus k := by
  unfold refAfterDeath at h
  split at h
  · exact ⟨h, nofun⟩
  · next j =>
    split at h
    · cases h
    · next hne => exact ⟨h, fun he => hne (SlotId.mus.inj he ▸ h)⟩

theorem refAfterDeath_eq_dead {ref : RefVoice} {slot : SlotId} {c c' : Nat} (h : refAfterDeath ref slot c = .dead c') :
    ref = .dead c' ∨ c' = c := by
  unfold refAfterDeath at h
  split at h
  · exact .inl h
  · split at h
    · exact .inr (RefVoice.dead.inj h).symm
    · exact .inl h

/-- A voice may be detached, with the reference noting the death at a cursor inside the buffer (10_state.md R37, R62). -/
theorem State.Running.detach (hs : s.Running) (slot : SlotId) {c : Nat} (hc : c < s.cfg.B) :
    ({ s with song := { s.song with ref := refAfterDeath s.song.ref slot c } }.setVoice slot none : State).Running where
  cfg_valid := by simpa using hs.cfg_valid
  mix_length := by simpa using hs.mix_length
  out_length := by simpa using hs.out_length
  voices_ok := by
    rw [setVoice_cfg]
    refine allVoices_emptySlot (P := Voice.Ok s.cfg) ?_ slot
    exact hs.voices_ok
  exclusive := by
    refine exclusive_of_sameInstr hs.exclusive fun k w hw => ?_
    rw [← voice_sfx, voice_setVoice] at hw
    split at hw
    · cases hw
    · exact ⟨w, hw, rfl⟩
  song_ok :=
    { live_ref := by
        intro k hk
        obtain ⟨hk, hne⟩ := refAfterDeath_eq_live (by simpa using hk)
        rw [← voice_mus, voice_setVoice, if_neg hne]
        exact hs.song_ok.live_ref k hk
      dead_ref := by
        intro c' hc'
        rw [setVoice_cfg]
        obtain hd | rfl := refAfterDeath_eq_dead (by simpa using hc')
        · exact hs.song_ok.dead_ref c' hd
        · exact hc
      stopped_silent := by
        intro hm k
        rw [← voice_mus, voice_setVoice]
        split
        · rfl
        · exact hs.song_ok.stopped_silent (by simpa using hm) k }
  bench_ok := by simpa using hs.bench_ok

/-! ## The music slots -/

/-- A set-up while the song plays: fresh voices at a cursor inside the buffer, and a reference to one of them if there is one
(44_pattern_sequencer.md R241–R243). -/
theorem State.Running.setUpPattern (hs : s.Running) (hm : s.song.mode = .playing) (p : Fin 64) : (s.setUpPattern p).Running where
  cfg_valid := hs.cfg_valid
  mix_length := hs.mix_length
  out_length := hs.out_length
  voices_ok := allVoices_setUpPattern hs.voices_ok p fun n => voiceOk_startVoice s n 0 _ hs.carriedCursor_lt
  exclusive := hs.exclusive
  song_ok := by
    have hstop : (s.setUpPattern p).song.mode ≠ .stopped := by simp [hm]
    obtain ⟨-, hnone⟩ | ⟨j, v, hlive, hv, -⟩ := isReference_selectRef (s.setUpPattern p).mus
    · have href : (s.setUpPattern p).song.ref = .none := hnone
      exact ⟨fun k hk => (nomatch href.symm.trans hk), fun c hd => (nomatch href.symm.trans hd), fun h => absurd h hstop⟩
    · have href : (s.setUpPattern p).song.ref = .live j := hlive
      refine ⟨fun k hk => ?_, fun c hd => (nomatch href.symm.trans hd), fun h => absurd h hstop⟩
      cases href.symm.trans hk
      exact Option.isSome_iff_exists.mpr ⟨v, hv⟩
  bench_ok := hs.bench_ok

/-- Entering Playing, or moving to another pattern, before the set-up. -/
theorem State.Running.playing (hs : s.Running) (p : Fin 64) :
    ({ s with song := { s.song with mode := .playing, pat := p } } : State).Running where
  cfg_valid := hs.cfg_valid
  mix_length := hs.mix_length
  out_length := hs.out_length
  voices_ok := hs.voices_ok
  exclusive := hs.exclusive
  song_ok := ⟨hs.song_ok.live_ref, hs.song_ok.dead_ref, fun h => nomatch h⟩
  bench_ok := hs.bench_ok

theorem State.Running.musicStart (hs : s.Running) (n : Fin 64) : (s.musicStart n).Running :=
  (hs.playing n).setUpPattern rfl n

theorem State.Running.moveTo (hs : s.Running) (hm : s.song.mode = .playing) (p : Fin 64) : (s.moveTo p).Running := by
  have he : s.moveTo p = s.musicStart p := by
    unfold State.moveTo State.musicStart
    rw [← hm]
  rw [he]
  exact hs.musicStart p

/-- The FSM stops where the reference voice has died (44_pattern_sequencer.md R251). -/
theorem State.Running.enterStopped (hs : s.Running) {c : Nat} (hr : s.song.ref = .dead c) : s.enterStopped.Running where
  cfg_valid := hs.cfg_valid
  mix_length := hs.mix_length
  out_length := hs.out_length
  voices_ok := allVoices_enterStopped hs.voices_ok
  exclusive := hs.exclusive
  song_ok := ⟨fun k hk => (nomatch hr.symm.trans hk), hs.song_ok.dead_ref, fun _ k => by simp⟩
  bench_ok := hs.bench_ok

/-! ## The PULL -/

theorem State.Running.updateSlot (hs : s.Running) {slot : SlotId} (h : s.updateSlot slot = .ok t) : t.Running := by
  obtain ⟨-, rfl⟩ | ⟨v, v', mix, d, hv, hu, rfl⟩ | ⟨v, v', mix, d, hv, hu, rfl⟩ := updateSlot_ok h
  · exact hs
  · obtain ⟨hok, hi, hl⟩ := updateVoice_alive_ok (hs.voices_ok slot v hv) hs.mix_length hu
    exact (hs.render hl d).replaceVoice (v := v) (by cases slot <;> exact hv) hok hi
  · obtain ⟨hc, hl⟩ := updateVoice_died_ok (hs.voices_ok slot v hv) hs.mix_length hu
    exact (hs.render hl d).detach slot hc

/-- The updates of a list of slots keep the block `Running`, and the mode of its song. -/
theorem State.Running.updateSlots (hs : s.Running) {slots : List SlotId} (h : s.updateSlots slots = .ok t) :
    t.Running ∧ t.song.mode = s.song.mode := by
  refine updateSlots_keeps (fun u => u.Running ∧ u.song.mode = s.song.mode) slots ?_ ⟨hs, rfl⟩ h
  rintro u u' slot - ⟨hu, hm⟩ he
  obtain ⟨-, -, -, -, -, -, -, hmode, -⟩ := updateSlot_frame he
  exact ⟨hu.updateSlot he, hmode.trans hm⟩

/-- What one round of the song tick can do: nothing while stopped; else the music slots are updated, and the pattern goes on,
or the FSM stops, or it moves to another pattern and the tick runs again (44_pattern_sequencer.md R246–R251). -/
theorem songTick_ok {fuel : Nat} {seen : List (Fin 64 × Nat)} (h : songTick (fuel + 1) seen s = .ok t) :
    (s.song.mode = .stopped ∧ t = s) ∨
    (s.song.mode = .playing ∧ ∃ u, s.updateSlots musSlots = .ok u ∧
      (t = u ∨ ∃ c, u.song.ref = .dead c ∧
        (t = u.enterStopped ∨ ∃ p, songTick fuel ((p, c) :: seen) (u.moveTo p) = .ok t))) := by
  unfold songTick at h
  rcases hm : s.song.mode with _ | _
  · simp only [hm, Except.ok.injEq] at h
    exact .inl ⟨rfl, h.symm⟩
  · rcases hu : s.updateSlots musSlots with r | u
    · simp [hm, hu] at h
    · refine .inr ⟨rfl, u, rfl, ?_⟩
      simp only [hm, hu] at h
      split at h
      · exact .inl (Except.ok.inj h).symm
      · exact .inl (Except.ok.inj h).symm
      · next c hr =>
        refine .inr ⟨c, hr, ?_⟩
        split at h
        · exact .inl (Except.ok.inj h).symm
        · next p _ =>
          split at h
          · cases h
          · exact .inr ⟨p, h⟩

theorem State.Running.songTick (hs : s.Running) {fuel : Nat} {seen : List (Fin 64 × Nat)} (h : songTick fuel seen s = .ok t) :
    t.Running := by
  induction fuel generalizing seen s with
  | zero => cases h
  | succ fuel ih =>
    obtain ⟨-, rfl⟩ | ⟨hm, u, hu, hcase⟩ := songTick_ok h
    · exact hs
    · obtain ⟨hur, hum⟩ := hs.updateSlots hu
      obtain rfl | ⟨c, hr, rfl | ⟨p, hagain⟩⟩ := hcase
      · exact hur
      · exact hur.enterStopped hr
      · exact ih (hur.moveTo (hum.trans hm) p) hagain

theorem State.Running.renderVoices (hs : s.Running) (h : s.renderVoices = .ok t) : t.Running := by
  unfold State.renderVoices at h
  rcases hu : s.updateSlots sfxSlots with r | u
  · simp [hu] at h
  · simp only [hu] at h
    exact (hs.updateSlots hu).1.songTick h

theorem State.Running.zeroMix (hs : s.Running) : s.zeroMix.Running :=
  hs.congr rfl List.length_replicate hs.out_length rfl rfl rfl hs.bench_ok

theorem State.Running.publish (hs : s.Running) : s.publish.Running :=
  hs.congr rfl hs.mix_length (by rw [publish_out, List.length_map, hs.mix_length]) rfl rfl rfl hs.bench_ok

/-! ## Runs and inputs -/

/-- Every run of an instruction keeps the block `Running`. (A stopped one-shot voice is a detached one: no reference names its
slot.) -/
theorem State.Running.ran (hs : s.Running) {k : Kind} (h : Ran s k t) : t.Running := by
  cases h with
  | nothing => exact hs
  | stoppedAll => exact hs.stopAllSfx
  | stopped k => exact hs.detach (.sfx k) hs.zero_lt_B
  | released k v hv => exact hs.replaceVoice (slot := .sfx k) hv (voiceOk_release (hs.voices_ok (.sfx k) v hv)) rfl
  | played n ch off len => exact hs.sfxPlay n ch off len
  | started n => exact hs.musicStart n
  | published u hu => exact (hs.zeroMix.renderVoices hu).publish
  | gotStuck r => exact hs.congr rfl hs.mix_length hs.out_length rfl rfl rfl hs.bench_ok
  | scheduled p =>
    obtain he | ⟨b, k, hb, he⟩ := scheduleOnBench_cases s fun v k => v.scheduleNote s.cfg.lit k p
    · rw [he]
      exact hs
    · rw [he]
      refine hs.bench _ s.draws fun b' hb' => ?_
      cases hb'
      exact benchOk_scheduleNote (hs.bench_ok b hb) k p
  | rendered w =>
    obtain he | ⟨b, task, m, x, hr, -, rfl, he⟩ := renderOnBench_cases s (oscStep w)
    · rw [he]
      exact hs
    · rw [he]
      refine hs.bench _ _ fun b' hb' => ?_
      cases hb'
      exact benchOk_afterSample (hs.bench_ok b hr.on_bench) hr (renderSample_rng_isSome ..) _

theorem State.Running.selectVoice (hs : s.Running) (slot : SlotId) : (s.selectVoice slot).Running := by
  refine hs.bench _ s.draws fun b hb => ?_
  obtain ⟨v, hv, rfl⟩ := Option.map_eq_some_iff.mp hb
  exact benchOk_benchOf (hs.voices_ok slot v hv)

/-- What waits in the stream and what the tables hold do not matter. -/
theorem State.Running.outside (hs : s.Running) (stream : List Input) (tables : Memory) :
    ({ s with stream := stream, tables := tables } : State).Running :=
  hs.congr rfl hs.mix_length hs.out_length rfl rfl rfl hs.bench_ok

/-- The reset values are those of a running block (10_state.md R33; 70_reset_and_hazards.md R340). -/
theorem running_clear (hc : CfgValid s.cfg) : s.clear.Running where
  cfg_valid := hc
  mix_length := List.length_replicate
  out_length := List.length_replicate
  voices_ok := allVoices_clear _ s
  exclusive := fun j k v w hv => by simp at hv
  song_ok := ⟨(fun _ h => nomatch h), (fun _ h => nomatch h), fun _ k => by simp⟩
  bench_ok := fun _ hb => nomatch hb

/-- A reset records a fault, or latches a valid configuration and sets the reset values (60_exceptions.md R311). -/
theorem applyReset_cases (c : Cfg) (s : State) :
    (∃ f, s.applyReset c = { s with cfg := c }.raiseCfgFault f) ∨
    (CfgValid c ∧ s.applyReset c = { s with cfg := c }.clear) := by
  unfold State.applyReset
  rcases hc : checkCfg c with _ | f
  · refine .inr ⟨?_, rfl⟩
    unfold checkCfg at hc
    split at hc
    · cases hc
    · split at hc
      · cases hc
      · exact ⟨by omega, by omega⟩
  · exact .inl ⟨f, rfl⟩

/-! ## The invariant -/

theorem inv_reset (h : s.Inv) (c : Cfg) (rest : List Input) : ({ s with stream := rest }.applyReset c : State).Inv where
  tables_wf := by rw [applyReset_tables]; exact h.tables_wf
  running := by
    obtain ⟨f, he⟩ | ⟨hc, he⟩ := applyReset_cases c { s with stream := rest }
    · rw [he]
      exact fun hf => nomatch hf
    · rw [he]
      exact fun _ => running_clear hc

end Running

/-- Settles O55: the table write keeps the canonical form, and every other input keeps the tables and the block `Running`. -/
theorem invStep : Obligations.InvStep := by
  intro s t hs h
  obtain ⟨-, rfl⟩ | ⟨c, rest, -, rfl⟩ | ⟨a, b, rest, -, rfl⟩ | ⟨slot, rest, -, -, rfl⟩ | ⟨w, rest, -, -, hx⟩ := step_next h
  · exact hs
  · exact inv_reset hs c rest
  · exact ⟨memWrite_wf hs.tables_wf a b, fun hf => (hs.running hf).outside rest _⟩
  · exact ⟨hs.tables_wf, fun hf => ((hs.running hf).outside rest s.tables).selectVoice slot⟩
  · have hran := ran_of_exec hx
    obtain ⟨-, hfault, htables⟩ := hran.frame
    exact ⟨htables ▸ hs.tables_wf, fun hf => ((hs.running (hfault ▸ hf)).outside rest s.tables).ran hran⟩

end Sys2Proof.Machine
end

section
/-! SUPPORT. Phases and stored noise samples in range: the frequency of a task is at least 0, an oscillator step at such a
frequency keeps its oscillator in range, and so does all that renders. -/

namespace Sys2Proof.Machine

/-! ## Frequencies are at least 0 -/

theorem romHz_pos (k : Nat) : 0 < romHz k := by
  unfold romHz
  positivity

theorem romEntry_val_pos (k : Fin 128) (d : Valuation) : 0 < (romEntry k).val d := by
  unfold romEntry
  split
  · rw [val_rat]
    positivity
  · exact romHz_pos _

theorem pf_val_pos (p : Fin 64) (d : Valuation) : 0 < (pf p).val d := romEntry_val_pos _ d

theorem pfAt_val_pos (q : Rat) (d : Valuation) : 0 < (pfAt q).val d := by
  unfold pfAt
  split
  · exact romEntry_val_pos _ d
  · rw [val_pitch]
    positivity

/-- A point between two numbers that are at least 0 is at least 0. -/
theorem between_nonneg {a b x : ℝ} (ha : 0 ≤ a) (hb : 0 ≤ b) (hx0 : 0 ≤ x) (hx1 : x ≤ 1) : 0 ≤ a + x * (b - a) := by
  have he : a + x * (b - a) = (1 - x) * a + x * b := by ring
  rw [he]
  exact add_nonneg (mul_nonneg (sub_nonneg.mpr hx1) ha) (mul_nonneg hx0 hb)

/-- While a task is not complete, its elapsed time lies in its duration (42_envelope_renderer.md R174, R175). -/
theorem elapsed_div_duration {task : RenderTask} {cfg : Cfg} (h : task.complete cfg = false) :
    0 ≤ elapsed cfg.rate task / duration cfg.lit task.speed ∧ elapsed cfg.rate task / duration cfg.lit task.speed ≤ 1 := by
  have hn : task.n * cfg.lit.speedDiv < task.speed.val * cfg.rate := by simpa [RenderTask.complete] using h
  have hdiv : (0 : Rat) < ((cfg.lit.speedDiv : Nat) : Rat) := by exact_mod_cast cfg.lit.speedDiv.pos
  have hrate : (0 : Rat) < (cfg.rate : Rat) := by
    have : 0 < cfg.rate := Nat.pos_of_mul_pos_left (Nat.zero_lt_of_lt hn)
    exact_mod_cast this
  have hn' : (task.n : Rat) * ((cfg.lit.speedDiv : Nat) : Rat) ≤ (task.speed.val : Rat) * (cfg.rate : Rat) := by
    exact_mod_cast hn.le
  unfold elapsed duration
  constructor
  · positivity
  · exact div_le_one_of_le₀ ((div_le_div_iff₀ hrate hdiv).mpr hn') (by positivity)

/-- A glide's frequency lies between those of its two pitches (R177). -/
theorem glideFreq_val_nonneg {task : RenderTask} {lit : Literals} {t : Rat} (h0 : 0 ≤ t / duration lit task.speed)
    (h1 : t / duration lit task.speed ≤ 1) (d : Valuation) : 0 ≤ (task.glideFreq lit t).val d := by
  simp only [RenderTask.glideFreq, val_add, val_scale, val_sub]
  exact between_nonneg (pf_val_pos _ d).le (pf_val_pos _ d).le (by exact_mod_cast h0) (by exact_mod_cast h1)

/-- A vibrato's frequency lies between its pitch's and the one VIB_DEPTH above (R178). -/
theorem vibratoFreq_val_nonneg (task : RenderTask) (lit : Literals) (t : Rat) (d : Valuation) :
    0 ≤ (task.vibratoFreq lit t).val d := by
  have hlo := Real.neg_one_le_sin (2 * Real.pi * ((lit.vibHz * t : Rat) : ℝ))
  have hhi := Real.sin_le_one (2 * Real.pi * ((lit.vibHz * t : Rat) : ℝ))
  simp only [RenderTask.vibratoFreq, val_add, val_mul, val_sub, val_scale, val_shift, val_sinTurn, val_rat]
  rw [mul_comm (_ - _)]
  refine between_nonneg (pf_val_pos _ d).le (pfAt_val_pos _ d).le ?_ ?_ <;> push_cast at hlo hhi ⊢ <;> linarith

/-- The frequency of a task that is not complete is at least 0 (R177, R178). -/
theorem freqAt_val_nonneg {task : RenderTask} {cfg : Cfg} (h : task.complete cfg = false) (d : Valuation) :
    0 ≤ (task.freqAt cfg.lit (elapsed cfg.rate task)).val d := by
  obtain ⟨h0, h1⟩ := elapsed_div_duration h
  unfold RenderTask.freqAt
  split
  · exact vibratoFreq_val_nonneg ..
  · exact glideFreq_val_nonneg h0 h1 d

/-! ## The oscillator -/

/-- An oscillator in range (10_state.md R51), whatever the draws. -/
structure OscState.InRange (o : OscState) : Prop where
  phase_mem : ∀ d, o.phase.val d ∈ Set.Ico (0 : ℝ) 128
  ns_mem : ∀ d, o.ns.val d ∈ Set.Icc (-1 : ℝ) 1

/-- The signal state of a voice is its oscillator's. -/
theorem signalOk_iff {v : Voice} : v.SignalOk ↔ v.osc.InRange := by
  constructor
  · intro h
    exact ⟨fun d => ⟨h.phase_lower d, h.phase_upper d⟩, fun d => ⟨h.ns_lower d, h.ns_upper d⟩⟩
  · intro h
    exact ⟨fun d => (h.phase_mem d).1, fun d => (h.phase_mem d).2, fun d => (h.ns_mem d).1, fun d => (h.ns_mem d).2⟩

/-- A number modulo 128 lies in [0, 128) (00_scope.md R15). -/
theorem mod_phaseMod_mem (x : Exact) (d : Valuation) : (x.mod Config.phaseMod).val d ∈ Set.Ico (0 : ℝ) 128 := by
  have h128 : (0 : ℝ) < 128 := by norm_num
  simp only [val_mod, Config.phaseMod, Rat.cast_ofNat]
  rw [mul_comm]
  exact ⟨Int.sub_floor_div_mul_nonneg _ h128, Int.sub_floor_div_mul_lt _ h128⟩

theorem inRange_advancePhase {o : OscState} (ho : o.InRange) (sr : Nat) (f : Exact) : (advancePhase sr f o).InRange :=
  ⟨mod_phaseMod_mem _, ho.ns_mem⟩

/-- The reference LFSR's draw lies in [−1, 1], its low 16 bits being at most 2 · 32767.5 (92_eei_decisions.md D14). -/
theorem lfsrValue_mem (x : BitVec 32) : -1 ≤ lfsrValue x ∧ lfsrValue x ≤ 1 := by
  have hlt : (x.extractLsb' 0 16).toNat ≤ 65535 := by omega
  have hlt' : ((x.extractLsb' 0 16).toNat : Rat) ≤ 65535 := by exact_mod_cast hlt
  have hpos : (0 : Rat) ≤ ((x.extractLsb' 0 16).toNat : Rat) := by exact_mod_cast Nat.zero_le _
  unfold lfsrValue
  constructor <;> linarith

/-- A draw lies in [−1, 1], whichever the noise source (41_waveform_oscillator.md R153). -/
theorem drawNoise_mem (r : Option (BitVec 32)) (draws : Nat) (d : Valuation) :
    (drawNoise r draws).value.val d ∈ Set.Icc (-1 : ℝ) 1 := by
  cases r with
  | none => exact ⟨d.lower draws, d.upper draws⟩
  | some x =>
    obtain ⟨hlo, hhi⟩ := lfsrValue_mem (lfsrRun 16 x)
    rw [drawNoise, val_rat]
    exact ⟨by exact_mod_cast hlo, by exact_mod_cast hhi⟩

theorem noiseScale_val_nonneg (lit : Literals) {f : Exact} {d : Valuation} (hf : 0 ≤ f.val d) : 0 ≤ (noiseScale lit f).val d := by
  unfold noiseScale
  split
  · simp
  · rw [val_div]
    exact div_nonneg hf (pf_val_pos _ d).le

/-- The blend of two numbers in [−1, 1] with weights 1 and `scale ≥ 0` is in [−1, 1] (R152). -/
theorem noiseBlend_mem {prev scale r : Exact} {d : Valuation} (hp : prev.val d ∈ Set.Icc (-1 : ℝ) 1)
    (hs : 0 ≤ scale.val d) (hr : r.val d ∈ Set.Icc (-1 : ℝ) 1) : (noiseBlend prev scale r).val d ∈ Set.Icc (-1 : ℝ) 1 := by
  obtain ⟨hp0, hp1⟩ := hp
  obtain ⟨hr0, hr1⟩ := hr
  have hpos : 0 < scale.val d + 1 := by linarith
  have hlo := mul_le_mul_of_nonneg_left hr0 hs
  have hhi := mul_le_mul_of_nonneg_left hr1 hs
  simp only [noiseBlend, val_div, val_add, val_mul, val_shift, Rat.cast_one]
  exact ⟨(le_div_iff₀ hpos).mpr (by linarith), (div_le_iff₀ hpos).mpr (by linarith)⟩

/-- An oscillator step at a frequency of at least 0 keeps its oscillator in range (R141, R152). -/
theorem inRange_oscStep (w : Waveform) (cfg : Cfg) {f : Exact} {o : OscState} (draws : Nat) (hf : ∀ d, 0 ≤ f.val d)
    (ho : o.InRange) : (oscStep w cfg f o draws).osc.InRange := by
  have hadvance := inRange_advancePhase ho cfg.rate f
  cases w
  case noise =>
    exact ⟨hadvance.phase_mem, fun d => noiseBlend_mem (hadvance.ns_mem d) (noiseScale_val_nonneg cfg.lit (hf d)) (drawNoise_mem ..)⟩
  all_goals exact hadvance

/-- A sample of an incomplete task keeps the oscillator in range. -/
theorem inRange_renderSample (w : Waveform) {cfg : Cfg} (active : Bool) {task : RenderTask} {o : OscState} (draws : Nat) (m : Exact)
    (hc : task.complete cfg = false) (ho : o.InRange) : (renderSample (oscStep w) cfg active task o draws m).osc.InRange := by
  unfold renderSample
  split
  · exact inRange_oscStep w cfg draws (freqAt_val_nonneg hc) ho
  · exact ho

/-! ## Voices -/

theorem signalOk_startVoice (s : State) (n : Fin 64) (off len : Int) (c : Nat) : (s.startVoice n off len c).SignalOk :=
  signalOk_iff.mpr ⟨fun d => by simp [State.startVoice, freshOsc], fun d => by simp [State.startVoice, freshOsc]⟩

theorem signalOk_release {v : Voice} (hv : v.SignalOk) : v.release.SignalOk := 
  ⟨hv.phase_lower, hv.phase_upper, hv.ns_lower, hv.ns_upper⟩

theorem signalOk_updateVoice {cfg : Cfg} {v v' : Voice} {mix mix' : List Exact} {d d' : Nat} (hv : v.SignalOk)
    (h : updateVoice cfg v mix d = .alive v' mix' d') : v'.SignalOk :=
  signalOk_iff.mpr <| updateVoice_osc OscState.InRange (fun active task _ d m => inRange_renderSample task.wave active d m)
    (signalOk_iff.mp hv) h

/-! ## The whole machine -/

section Signal
variable {s t : State}

/-- Every voice in a slot and the bench's has its signal state in range: what `SignalInv` says of a block without a fault. -/
structure State.SignalRunning (s : State) : Prop where
  voices_ok : s.AllVoices Voice.SignalOk
  bench_ok : ∀ b, s.bench = some b → b.voice.SignalOk

theorem signalInv_iff : s.SignalInv ↔ (s.fault = none → s.SignalRunning) :=
  ⟨fun h hf => ⟨(h hf).1, (h hf).2⟩, fun h hf => ⟨(h hf).voices_ok, (h hf).bench_ok⟩⟩

/-- Only the slots and the bench matter. -/
theorem State.SignalRunning.congr (hs : s.SignalRunning) (hsfx : t.sfx = s.sfx) (hmus : t.mus = s.mus)
    (hb : ∀ b, t.bench = some b → b.voice.SignalOk) : t.SignalRunning := by
  refine ⟨allVoices_iff.mpr ?_, hb⟩
  rw [hsfx, hmus]
  exact allVoices_iff.mp hs.voices_ok

theorem State.SignalRunning.updateSlot (hs : s.SignalRunning) {slot : SlotId} (h : s.updateSlot slot = .ok t) :
    t.SignalRunning := by
  obtain ⟨-, -, -, -, -, -, hbench, -⟩ := updateSlot_frame h
  refine ⟨?_, hbench ▸ hs.bench_ok⟩
  obtain ⟨-, rfl⟩ | ⟨v, v', mix, d, hv, hu, rfl⟩ | ⟨v, v', mix, d, hv, hu, rfl⟩ := updateSlot_ok h
  · exact hs.voices_ok
  · refine allVoices_setVoice ?_ slot fun w hw => ?_
    · exact (hs.congr rfl rfl hs.bench_ok).voices_ok
    · cases hw
      exact signalOk_updateVoice (hs.voices_ok slot v hv) hu
  · refine allVoices_emptySlot ?_ slot
    exact (hs.congr rfl rfl hs.bench_ok).voices_ok

theorem State.SignalRunning.setUpPattern (hs : s.SignalRunning) (p : Fin 64) : (s.setUpPattern p).SignalRunning :=
  ⟨allVoices_setUpPattern hs.voices_ok p fun _ => signalOk_startVoice .., hs.bench_ok⟩

theorem State.SignalRunning.moveTo (hs : s.SignalRunning) (p : Fin 64) : (s.moveTo p).SignalRunning := by
  have hpat : ({ s with song := { s.song with pat := p } } : State).SignalRunning := hs.congr rfl rfl hs.bench_ok
  exact hpat.setUpPattern p

theorem State.SignalRunning.musicStart (hs : s.SignalRunning) (n : Fin 64) : (s.musicStart n).SignalRunning := by
  have hplay : ({ s with song := { s.song with mode := .playing, pat := n } } : State).SignalRunning :=
    hs.congr rfl rfl hs.bench_ok
  exact hplay.setUpPattern n

theorem State.SignalRunning.renderVoices (hs : s.SignalRunning) (h : s.renderVoices = .ok t) : t.SignalRunning :=
  renderVoices_keeps State.SignalRunning (fun _ _ _ hP hu => hP.updateSlot hu)
    (fun _ _ hP _ => ⟨allVoices_enterStopped hP.voices_ok, hP.bench_ok⟩)
    (fun _ _ p hP _ _ => hP.moveTo p) hs h

/-- Every run of an instruction keeps the signal states in range. -/
theorem State.SignalRunning.ran (hs : s.SignalRunning) {k : Kind} (h : Ran s k t) : t.SignalRunning := by
  cases h with
  | nothing => exact hs
  | stoppedAll => exact ⟨allVoices_stopAllSfx hs.voices_ok, hs.bench_ok⟩
  | stopped k => exact ⟨allVoices_emptySlot hs.voices_ok (.sfx k), hs.bench_ok⟩
  | released k v hv =>
    refine ⟨allVoices_setVoice hs.voices_ok (.sfx k) fun w hw => ?_, hs.bench_ok⟩
    cases hw
    exact signalOk_release (hs.voices_ok (.sfx k) v hv)
  | played n ch off len =>
    refine ⟨allVoices_sfxPlay hs.voices_ok n ch off len (signalOk_startVoice ..), ?_⟩
    rw [sfxPlay_frame]
    exact hs.bench_ok
  | started n => exact hs.musicStart n
  | published u hu =>
    have hzero : s.zeroMix.SignalRunning := hs.congr rfl rfl hs.bench_ok
    have hu' := hzero.renderVoices hu
    exact hu'.congr rfl rfl hu'.bench_ok
  | gotStuck r => exact hs.congr rfl rfl hs.bench_ok
  | scheduled p =>
    obtain he | ⟨b, k, hb, he⟩ := scheduleOnBench_cases s fun v k => v.scheduleNote s.cfg.lit k p
    · rw [he]
      exact hs
    · rw [he]
      refine hs.congr rfl rfl fun b' hb' => ?_
      cases hb'
      obtain ⟨pol, pend, hsched, -⟩ := scheduleNote_is s.cfg.lit b.voice k p
      rw [signalOk_iff, hsched, scheduleAs_osc]
      exact signalOk_iff.mp (hs.bench_ok b hb)
  | rendered w =>
    obtain he | ⟨b, task, m, x, hr, hc, rfl, he⟩ := renderOnBench_cases s (oscStep w)
    · rw [he]
      exact hs
    · rw [he]
      refine hs.congr rfl rfl fun b' hb' => ?_
      cases hb'
      exact signalOk_iff.mpr (inRange_renderSample w _ _ m hc (signalOk_iff.mp (hs.bench_ok b hr.on_bench)))

theorem State.SignalRunning.selectVoice (hs : s.SignalRunning) (slot : SlotId) : (s.selectVoice slot).SignalRunning := by
  refine hs.congr rfl rfl fun b hb => ?_
  obtain ⟨v, hv, rfl⟩ := Option.map_eq_some_iff.mp hb
  exact hs.voices_ok slot v hv

/-- What waits in the stream and what the tables hold do not matter. -/
theorem State.SignalRunning.outside (hs : s.SignalRunning) (stream : List Input) (tables : Memory) :
    ({ s with stream := stream, tables := tables } : State).SignalRunning :=
  hs.congr rfl rfl hs.bench_ok

theorem signalRunning_clear (s : State) : s.clear.SignalRunning := ⟨allVoices_clear _ s, fun _ hb => nomatch hb⟩

theorem signalInv_reset (c : Cfg) (s : State) : (s.applyReset c).SignalInv := by
  rw [signalInv_iff]
  obtain ⟨f, he⟩ | ⟨-, he⟩ := applyReset_cases c s
  · rw [he]
    exact fun hf => nomatch hf
  · rw [he]
    exact fun _ => signalRunning_clear _

end Signal

/-- Settles O56: the oscillators are written by samples of incomplete tasks only, whose frequencies are at least 0. -/
theorem signalInvStep : Obligations.SignalInvStep := by
  intro s t _ hs h
  rw [signalInv_iff] at hs
  obtain ⟨-, rfl⟩ | ⟨c, rest, -, rfl⟩ | ⟨a, b, rest, -, rfl⟩ | ⟨slot, rest, -, -, rfl⟩ | ⟨w, rest, -, -, hx⟩ := step_next h
  · exact signalInv_iff.mpr hs
  · exact signalInv_reset c _
  · exact signalInv_iff.mpr fun hf => (hs hf).outside rest _
  · exact signalInv_iff.mpr fun hf => ((hs hf).outside rest s.tables).selectVoice slot
  · have hran := ran_of_exec hx
    obtain ⟨-, hfault, -⟩ := hran.frame
    exact signalInv_iff.mpr fun hf => ((hs (hfault ▸ hf)).outside rest s.tables).ran hran

/-- Settles O54: State.reset is a cleared state with a valid configuration. -/
theorem resetInv : Obligations.ResetInv := by
  have hclear : State.reset = State.reset.clear := rfl
  have hvalid : CfgValid State.reset.cfg := by decide
  refine ⟨⟨memory_nil_wf, fun _ => ?_⟩, signalInv_iff.mpr fun _ => ?_, rfl, rfl, ?_, rfl⟩
  · rw [hclear]
    exact running_clear hvalid
  · rw [hclear]
    exact signalRunning_clear _
  · rintro (k | k) <;> simp [State.reset]

end Sys2Proof.Machine
end

section
/-! SUPPORT. The table records (20_memory.md R82, R83): the addresses of their bytes as numbers, and their fields as functions
of their bytes (30_encoding.md R112, R120); and the step that runs an instruction word. -/

namespace Sys2Proof.Machine

section Records
variable {s : State}

/-! ## Addresses -/

theorem instrAddr_toNat (c : Cfg) (n : Fin 64) (j : Nat) :
    (instrAddr c n j).toNat = (c.instrBase.toNat + 68 * n.val + j) % 65536 := by
  simp only [instrAddr, Config.instrBytes, BitVec.toNat_add, BitVec.toNat_ofNat]
  omega

theorem patternAddr_toNat (c : Cfg) (p : Fin 64) (j : Nat) :
    (patternAddr c p j).toNat = (c.songBase.toNat + 4 * p.val + j) % 65536 := by
  simp only [patternAddr, Config.patBytes, BitVec.toNat_add, BitVec.toNat_ofNat]
  omega

/-- Byte `j` of an instrument is what the tables hold at the address of R82. -/
theorem instrByte_eq {n : Fin 64} {j : Nat} {b : Byte}
    (h : ∀ a : Addr, a.toNat = (s.cfg.instrBase.toNat + 68 * n.val + j) % 65536 → memRead s.tables a = b) :
    s.instrByte n j = b :=
  h _ (instrAddr_toNat s.cfg n j)

/-- Byte `j` of a pattern is what the tables hold at the address of R83. -/
theorem patternByte_eq {p : Fin 64} {j : Nat} {b : Byte}
    (h : ∀ a : Addr, a.toNat = (s.cfg.songBase.toNat + 4 * p.val + j) % 65536 → memRead s.tables a = b) :
    s.patternByte p j = b :=
  h _ (patternAddr_toNat s.cfg p j)

/-! ## Fields -/

theorem decodeInstrument_notes (s : State) (n : Fin 64) (i : Fin 32) :
    (s.decodeInstrument n).notes[i] = decodeNote (s.instrByte n (2 * i.val + 1) ++ s.instrByte n (2 * i.val)) := by
  simp [State.decodeInstrument, State.noteWordAt]

theorem decodePattern_channels (s : State) (p : Fin 64) (k : Fin 4) :
    (s.decodePattern p).channels[k] = decodeChannel (s.patternByte p k.val) := by
  simp [State.decodePattern]

@[simp] theorem decodeChannel_instrumentIndex_val (q : Byte) : (decodeChannel q).instrumentIndex.val = q.toNat % 64 := by
  simp [decodeChannel]

/-- The fields of an instrument whose bytes are known, the header as numbers (R110, R112). -/
theorem decodeInstrument_of_bytes {n : Fin 64} {byte : Nat → Byte} (hb : ∀ j < 68, s.instrByte n j = byte j) :
    (∀ i : Fin 32, (s.decodeInstrument n).notes[i] = decodeNote (byte (2 * i.val + 1) ++ byte (2 * i.val))) ∧
    (s.decodeInstrument n).editorMode.val = (byte 64).toNat ∧ (s.decodeInstrument n).speed.val = (byte 65).toNat ∧
    (s.decodeInstrument n).loopStart.val = (byte 66).toNat ∧ (s.decodeInstrument n).loopEnd.val = (byte 67).toNat := by
  have header : ∀ j < 68, (byteIndex (s.instrByte n j)).val = (byte j).toNat := fun j hj => congrArg BitVec.toNat (hb j hj)
  refine ⟨fun i => ?_, header 64 (by omega), header 65 (by omega), header 66 (by omega), header 67 (by omega)⟩
  rw [decodeInstrument_notes, hb _ (by omega), hb _ (by omega)]

/-- The fields of a pattern whose bytes are known (R120). -/
theorem decodePattern_of_bytes {p : Fin 64} {byte : Fin 4 → Byte} (hb : ∀ j : Fin 4, s.patternByte p j.val = byte j) :
    (∀ k : Fin 4, (s.decodePattern p).channels[k].isSilent = (byte k).getLsbD 6 ∧
      (s.decodePattern p).channels[k].instrumentIndex.val = (byte k).toNat % 64) ∧
    (s.decodePattern p).loopStart = (byte 0).getLsbD 7 ∧ (s.decodePattern p).loopEnd = (byte 1).getLsbD 7 ∧
    (s.decodePattern p).shouldStop = (byte 2).getLsbD 7 := by
  have directive : ∀ j : Fin 4, (s.patternByte p j.val).getLsbD 7 = (byte j).getLsbD 7 := fun j => by rw [hb]
  refine ⟨fun k => ?_, directive 0, directive 1, directive 2⟩
  rw [decodePattern_channels, hb]
  exact ⟨rfl, decodeChannel_instrumentIndex_val (byte k)⟩

end Records

/-- Settles O6: every byte of a record is at the address the statement names, and the decoder reads the record's bytes only. -/
theorem tableRecords : Obligations.TableRecords := by
  intro s
  refine ⟨fun n byte h => ?_, fun p byte h => ?_⟩
  · exact decodeInstrument_of_bytes fun j hj => instrByte_eq (h j hj)
  · exact decodePattern_of_bytes fun j => patternByte_eq (h j)

/-! ## The step of an instruction word -/

/-- A block that is not halted runs the instruction word at the head of its stream on the rest of it (20_memory.md R93). -/
theorem step_eq_exec {s : State} {w : InstrWord} {rest : List Input} (e : s.stream = .issue w :: rest) (hh : s.halted = none) :
    step s = exec (decode w) { s with stream := rest } := by
  have hp : s.pending = .run w { s with stream := rest } := by simp only [State.pending, e, hh]
  simp only [step, hp]

/-- Settles O7: a block with neither a fault nor a stuck PULL is not halted. -/
theorem stepRunsDecoded : Obligations.StepRunsDecoded := by
  intro s w rest e hfault hstuck
  exact step_eq_exec e (halted_none.mpr ⟨hfault, hstuck⟩)

end Sys2Proof.Machine
end

section
/-! SUPPORT. Encoding (30_encoding.md): what a command word decodes to, said once (`CommandCase`); a word as the concatenation of
its fields; and the rows of the opcode table as conditions on the fields. -/

namespace Sys2Proof

/-! ## Every well-formed instruction is what its word decodes to -/

/-- Settles O2: the encoder's words have the fields the decoder reads, one lemma for each constructor (Laws/PerInstr.lean). -/
theorem decodeEncode : Obligations.DecodeEncode := by
  intro i
  cases i with
  | nop x => exact Laws.RoundTrip.nop x
  | sfxStop ch x => exact Laws.RoundTrip.sfxStop ch x
  | sfxRelease ch x => exact Laws.RoundTrip.sfxRelease ch x
  | sfxPlay n ch off len => exact Laws.RoundTrip.sfxPlay n ch off len
  | sfxReserved n x => exact Laws.RoundTrip.sfxReserved n x
  | music n x => exact Laws.RoundTrip.music n x
  | pull x => exact Laws.RoundTrip.pull x
  | reservedOp47 op x => exact Laws.RoundTrip.reservedOp47 op x
  | reservedOp8F op x => exact Laws.RoundTrip.reservedOp8F op x
  | fxNone note => exact Laws.RoundTrip.fxNone note
  | fxSlide note => exact Laws.RoundTrip.fxSlide note
  | fxVibrato note => exact Laws.RoundTrip.fxVibrato note
  | fxDrop note => exact Laws.RoundTrip.fxDrop note
  | fxFadeIn note => exact Laws.RoundTrip.fxFadeIn note
  | fxFadeOut note => exact Laws.RoundTrip.fxFadeOut note
  | fxArpFast note => exact Laws.RoundTrip.fxArpFast note
  | fxArpSlow note => exact Laws.RoundTrip.fxArpSlow note
  | waveTri c => exact Laws.RoundTrip.waveTri c
  | waveTilt c => exact Laws.RoundTrip.waveTilt c
  | waveSaw c => exact Laws.RoundTrip.waveSaw c
  | waveSquare c => exact Laws.RoundTrip.waveSquare c
  | wavePulse c => exact Laws.RoundTrip.wavePulse c
  | waveOrgan c => exact Laws.RoundTrip.waveOrgan c
  | waveNoise c => exact Laws.RoundTrip.waveNoise c
  | wavePhaser c => exact Laws.RoundTrip.wavePhaser c

/-! ## What a command word decodes to -/

/-- What a command word decodes to, by its opcode (30_encoding.md R101, R106) and, under opcode 0x1, its operand `n` (R103). -/
inductive CommandCase (w : Word) : Instr → Prop where
  | nop (h : w.extractLsb' 28 4 = 0x0#4) : CommandCase w (.nop (w.extractLsb' 0 28))
  | sfxStop (h : w.extractLsb' 28 4 = 0x1#4) (hn : (w.extractLsb' 20 8).toInt = -1) :
      CommandCase w (.sfxStop (w.extractLsb' 16 4).toInt (w.extractLsb' 0 16))
  | sfxRelease (h : w.extractLsb' 28 4 = 0x1#4) (hn : (w.extractLsb' 20 8).toInt = -2) :
      CommandCase w (.sfxRelease (w.extractLsb' 16 4).toInt (w.extractLsb' 0 16))
  | sfxPlay (h : w.extractLsb' 28 4 = 0x1#4) (hn : 0 ≤ (w.extractLsb' 20 8).toInt) :
      CommandCase w (.sfxPlay (w.extractLsb' 20 8).toInt (w.extractLsb' 16 4).toInt (w.extractLsb' 8 8).toInt
        (w.extractLsb' 0 8).toInt)
  | sfxReserved (h : w.extractLsb' 28 4 = 0x1#4) (hn : (w.extractLsb' 20 8).toInt ≤ -3) :
      CommandCase w (.sfxReserved (w.extractLsb' 20 8).toInt (w.extractLsb' 0 20))
  | music (h : w.extractLsb' 28 4 = 0x2#4) : CommandCase w (.music (w.extractLsb' 20 8).toInt (w.extractLsb' 0 20))
  | pull (h : w.extractLsb' 28 4 = 0x3#4) : CommandCase w (.pull (w.extractLsb' 0 28))
  | reservedOp47 (h : w.extractLsb' 30 2 = 0b01#2) : CommandCase w (.reservedOp47 (w.extractLsb' 28 2) (w.extractLsb' 0 28))
  | reservedOp8F (h : w.extractLsb' 31 1 = 0b1#1) : CommandCase w (.reservedOp8F (w.extractLsb' 28 3) (w.extractLsb' 0 28))

theorem commandCase_decodeSfx {w : Word} (h : w.extractLsb' 28 4 = 0x1#4) : CommandCase w (decodeSfx w) := by
  unfold decodeSfx
  dsimp only
  split
  · next hn => exact .sfxStop h hn
  · split
    · next hn => exact .sfxRelease h hn
    · split
      · next hn => exact .sfxPlay h hn
      · exact .sfxReserved h (by omega)

/-- A field as a number. -/
theorem toNat_extract {n : Nat} (w : BitVec n) (lo len : Nat) : (w.extractLsb' lo len).toNat = w.toNat / 2 ^ lo % 2 ^ len := by
  rw [BitVec.extractLsb'_toNat, Nat.shiftRight_eq_div_pow]

theorem commandCase_decodeCommand (w : Word) : CommandCase w (decodeCommand w) := by
  have hop := toNat_extract w 28 4
  unfold decodeCommand
  dsimp only
  split
  · next h => exact .nop h
  · split
    · next h => exact commandCase_decodeSfx h
    · split
      · next h => exact .music h
      · split
        · next h => exact .pull h
        · split
          · exact .reservedOp47 (BitVec.eq_of_toNat_eq (by rw [toNat_extract]; bv_omega))
          · exact .reservedOp8F (BitVec.eq_of_toNat_eq (by rw [toNat_extract]; bv_omega))

/-! ## A word from its fields -/

/-- Two neighbouring fields are one field. -/
theorem extract_append_extract {n : Nat} (w : BitVec n) (lo a b : Nat) :
    w.extractLsb' (lo + a) b ++ w.extractLsb' lo a = w.extractLsb' lo (b + a) :=
  BitVec.extractLsb'_append_extractLsb'_eq_extractLsb' rfl

theorem bareWord_fields (w : Word) : (w.extractLsb' 28 4 ++ w.extractLsb' 0 28 : Word) = w := by
  rw [extract_append_extract w 0 28 4, extract_all]

theorem operandWord_fields (w : Word) :
    (w.extractLsb' 28 4 ++ BitVec.ofInt 8 (w.extractLsb' 20 8).toInt ++ w.extractLsb' 0 20 : Word) = w := by
  rw [BitVec.ofInt_toInt, extract_append_extract w 20 8 4, extract_append_extract w 0 20 12, extract_all]

theorem sfxWord_fields {w : Word} (h : w.extractLsb' 28 4 = 0x1#4) :
    sfxWord (w.extractLsb' 20 8).toInt (w.extractLsb' 16 4).toInt (w.extractLsb' 0 16) = w := by
  rw [sfxWord, ← h, BitVec.ofInt_toInt, BitVec.ofInt_toInt, extract_append_extract w 20 8 4, extract_append_extract w 16 4 12,
    extract_append_extract w 0 16 16, extract_all]

theorem reserved47_fields (w : Word) : (w.extractLsb' 30 2 ++ w.extractLsb' 28 2 ++ w.extractLsb' 0 28 : Word) = w := by
  rw [extract_append_extract w 28 2 2, bareWord_fields]

theorem reserved8F_fields (w : Word) : (w.extractLsb' 31 1 ++ w.extractLsb' 28 3 ++ w.extractLsb' 0 28 : Word) = w := by
  rw [extract_append_extract w 28 3 1, bareWord_fields]

theorem byteInField_toInt (x : BitVec 8) : byteInField x.toInt = true := by
  have hlo := BitVec.le_toInt x
  have hhi := BitVec.toInt_lt (x := x)
  simp only [byteInField, inRange, Bool.and_eq_true, decide_eq_true_eq]
  omega

theorem chInField_toInt (x : BitVec 4) : chInField x.toInt = true := by
  have hlo := BitVec.le_toInt x
  have hhi := BitVec.toInt_lt (x := x)
  simp only [chInField, inRange, Bool.and_eq_true, decide_eq_true_eq]
  omega

/-- What a command word decodes to is well-formed, its operands being signed fields (R103). -/
theorem CommandCase.wf {w : Word} {i : Instr} (h : CommandCase w i) : i.wf = true := by
  have hn := byteInField_toInt (w.extractLsb' 20 8)
  have hch := chInField_toInt (w.extractLsb' 16 4)
  cases h with
  | nop _ => rfl
  | sfxStop _ _ => exact hch
  | sfxRelease _ _ => exact hch
  | sfxPlay _ h0 =>
    simp only [Instr.wf, hch, byteInField_toInt, Bool.and_true]
    simp_all [byteInField, inRange]
  | sfxReserved _ h3 => simp_all [Instr.wf, byteInField, inRange]
  | music _ => exact hn
  | pull _ => rfl
  | reservedOp47 _ => rfl
  | reservedOp8F _ => rfl

/-- What a command word decodes to has that word (R102). -/
theorem CommandCase.encode_eq {w : Word} {i : Instr} (h : CommandCase w i) : encode i = .command w := by
  cases h with
  | nop h => rw [encode, ← h, bareWord_fields]
  | sfxStop h hn => rw [encode, ← hn, sfxWord_fields h]
  | sfxRelease h hn => rw [encode, ← hn, sfxWord_fields h]
  | sfxPlay h _ => rw [encode, BitVec.ofInt_toInt, BitVec.ofInt_toInt, extract_append_extract w 0 8 8, sfxWord_fields h]
  | sfxReserved h _ => rw [encode, ← h, operandWord_fields]
  | music h => rw [encode, ← h, operandWord_fields]
  | pull h => rw [encode, ← h, bareWord_fields]
  | reservedOp47 h => rw [encode, ← h, reserved47_fields]
  | reservedOp8F h => rw [encode, ← h, reserved8F_fields]

/-! ## A note word from its fields -/

/-- A note word as the concatenation of the fields of R111. -/
theorem noteWord_fields (w : NoteWord) :
    (w.extractLsb' 15 1 ++ w.extractLsb' 12 3 ++ w.extractLsb' 9 3 ++ w.extractLsb' 6 3 ++ w.extractLsb' 0 6 : NoteWord) = w := by
  rw [extract_append_extract w 12 3 1, extract_append_extract w 9 3 4, extract_append_extract w 6 3 7,
    extract_append_extract w 0 6 10, extract_all]

theorem decodeNote_effectBits (w : NoteWord) : effectBits (decodeNote w).effect = w.extractLsb' 12 3 := effectBits_of _

theorem decodeNote_waveformBits (w : NoteWord) : waveformBits (decodeNote w).fields.wave = w.extractLsb' 6 3 := waveformBits_of _

theorem ofBool_decodeNote_custom (w : NoteWord) : BitVec.ofBool (decodeNote w).fields.custom = w.extractLsb' 15 1 := by
  ext i hi
  obtain rfl : i = 0 := by omega
  simp [decodeNote]

/-- A field read as an index and written back. -/
theorem ofNat_toFin {n : Nat} (x : BitVec n) : BitVec.ofNat n x.toFin.val = x :=
  (BitVec.ofNat_toNat n x).trans (BitVec.setWidth_eq x)

theorem noteWord_decodeNote (w : NoteWord) : noteWord (decodeNote w).effect (decodeNote w).fields = w := by
  have hv : BitVec.ofNat 3 (decodeNote w).fields.volume.val = w.extractLsb' 9 3 := ofNat_toFin _
  have hp : BitVec.ofNat 6 (decodeNote w).fields.pitch.val = w.extractLsb' 0 6 := ofNat_toFin _
  rw [noteWord, ofBool_decodeNote_custom, decodeNote_effectBits, decodeNote_waveformBits, hv, hp, noteWord_fields]

theorem and_seven (x : BitVec 3) : x &&& 7#3 = x := BitVec.and_allOnes

/-- The bits w[14:12] of a note word, those a note_effect row looks at (R132). -/
theorem and_effectMask (w : NoteWord) : w &&& 0x7000#16 = 0#1 ++ w.extractLsb' 12 3 ++ 0#12 := by
  have hw : (w.extractLsb' 15 1 ++ w.extractLsb' 12 3 ++ w.extractLsb' 0 12 : NoteWord) = w := by
    rw [extract_append_extract w 12 3 1, extract_append_extract w 0 12 4, extract_all]
  calc w &&& 0x7000#16
      = (w.extractLsb' 15 1 ++ w.extractLsb' 12 3 ++ w.extractLsb' 0 12) &&& (0#1 ++ 7#3 ++ 0#12) := by rw [hw]; rfl
    _ = 0#1 ++ w.extractLsb' 12 3 ++ 0#12 := by
      rw [BitVec.and_append, BitVec.and_append, BitVec.and_zero, BitVec.and_zero, and_seven]

/-- The bits w[8:6] of a note word, those a note_wave row looks at, and any of w[15] (R132). -/
theorem and_waveMask (w : NoteWord) (c : BitVec 1) :
    w &&& (c ++ 0#6 ++ 7#3 ++ 0#6 : NoteWord) = (w.extractLsb' 15 1 &&& c) ++ 0#6 ++ w.extractLsb' 6 3 ++ 0#6 := by
  have hw : (w.extractLsb' 15 1 ++ w.extractLsb' 9 6 ++ w.extractLsb' 6 3 ++ w.extractLsb' 0 6 : NoteWord) = w := by
    rw [extract_append_extract w 9 6 1, extract_append_extract w 6 3 7, extract_append_extract w 0 6 10, extract_all]
  calc w &&& (c ++ 0#6 ++ 7#3 ++ 0#6 : NoteWord)
      = (w.extractLsb' 15 1 ++ w.extractLsb' 9 6 ++ w.extractLsb' 6 3 ++ w.extractLsb' 0 6) &&& (c ++ 0#6 ++ 7#3 ++ 0#6) := by
        rw [hw]
    _ = (w.extractLsb' 15 1 &&& c) ++ 0#6 ++ w.extractLsb' 6 3 ++ 0#6 := by
        rw [BitVec.and_append, BitVec.and_append, BitVec.and_append, BitVec.and_zero, BitVec.and_zero, and_seven]

/-- The waveform selector of a note is its bits 15 and 8:6 (R132). -/
theorem waveWord_decodeNote (w : NoteWord) :
    waveWord (decodeNote w).fields.wave (decodeNote w).fields.custom = w &&& 0x81C0#16 := by
  have hc : w.extractLsb' 15 1 &&& 1#1 = w.extractLsb' 15 1 := BitVec.and_allOnes
  have hmask : (0x81C0#16 : NoteWord) = 1#1 ++ 0#6 ++ 7#3 ++ 0#6 := rfl
  rw [hmask, and_waveMask, hc, waveWord, ofBool_decodeNote_custom, decodeNote_waveformBits]

theorem encode_effectInstr (p : PackedNote) : encode (effectInstr p) = .noteEffect (noteWord p.effect p.fields) := by
  obtain ⟨e, f⟩ := p
  cases e <;> rfl

theorem encode_waveInstr (w : Waveform) (c : Bool) : encode (waveInstr w c) = .noteWave (waveWord w c) := by
  cases w <;> rfl

theorem effectInstr_wf (p : PackedNote) : (effectInstr p).wf = true := by
  obtain ⟨e, f⟩ := p
  cases e <;> rfl

theorem waveInstr_wf (w : Waveform) (c : Bool) : (waveInstr w c).wf = true := by
  cases w <;> rfl

/-- Settles O3: a word is the concatenation of its fields, and the instruction it decodes to holds them. -/
theorem encodeDecode : Obligations.EncodeDecode := by
  refine ⟨fun w => ?_, fun w => ?_, fun w => ?_⟩
  · have h := commandCase_decodeCommand w
    exact ⟨h.wf, h.encode_eq⟩
  · exact ⟨effectInstr_wf _, (encode_effectInstr _).trans (congrArg _ (noteWord_decodeNote w))⟩
  · exact ⟨waveInstr_wf _ _, (encode_waveInstr _ _).trans (congrArg _ (waveWord_decodeNote w))⟩

/-! ## The rows of the opcode table -/

/-- The row of a command format that fixes the bits of a word from bit `lo` up, to the number `b`. -/
def topRow (mnemonic : String) (lo b : Nat) : Row 32 where
  mnemonic := mnemonic
  mask := BitVec.allOnes 32 <<< lo
  bits := BitVec.ofNat 32 b <<< lo

theorem commandRows_eq : commandRows =
    [topRow "NOP" 28 0, topRow "SFX_STOP" 20 0x1FF, topRow "SFX_RELEASE" 20 0x1FE, topRow "SFX_PLAY" 27 2,
      topRow "SFX_RESERVED" 27 3, topRow "MUSIC" 28 2, topRow "PULL" 28 3, topRow "RESERVED_OP_4_7" 30 1,
      topRow "RESERVED_OP_8_F" 31 1] := rfl

/-- The bits of a word from bit `lo` up, in their places. -/
theorem toNat_and_topMask {n : Nat} (w : BitVec n) (lo : Nat) :
    (w &&& BitVec.allOnes n <<< lo).toNat = w.toNat / 2 ^ lo * 2 ^ lo := by
  have hmask : w &&& BitVec.allOnes n <<< lo = (w >>> lo) <<< lo := by
    apply BitVec.eq_of_getLsbD_eq
    intro i hi
    by_cases h : i < lo
    · simp [h]
    · have hlo : lo + (i - lo) = i := by omega
      simp [h, hi, hlo]
  have hle : w.toNat / 2 ^ lo * 2 ^ lo < 2 ^ n := lt_of_le_of_lt (Nat.div_mul_le_self ..) w.isLt
  rw [hmask, BitVec.toNat_shiftLeft, BitVec.toNat_ushiftRight, Nat.shiftRight_eq_div_pow, Nat.shiftLeft_eq, Nat.mod_eq_of_lt hle]

theorem topRow_matchedBy {mnemonic : String} {lo b : Nat} (hb : b * 2 ^ lo < 2 ^ 32) (w : Word) :
    (topRow mnemonic lo b).matchedBy w = true ↔ w.toNat / 2 ^ lo = b := by
  have hpos : 0 < 2 ^ lo := Nat.two_pow_pos lo
  have hbits : (BitVec.ofNat 32 b <<< lo).toNat = b * 2 ^ lo := by
    rw [BitVec.toNat_shiftLeft, BitVec.toNat_ofNat, Nat.shiftLeft_eq, Nat.mod_mul_mod, Nat.mod_eq_of_lt hb]
  rw [Row.matchedBy, beq_iff_eq, ← BitVec.toNat_inj]
  simp only [topRow, toNat_and_topMask, hbits]
  exact Nat.mul_left_inj hpos.ne'

theorem find?_topRow_cons {lo b : Nat} (hb : b * 2 ^ lo < 2 ^ 32) (mnemonic : String) (rest : List (Row 32)) (w : Word) :
    ((topRow mnemonic lo b :: rest).find? fun r => r.matchedBy w).map (fun r => r.mnemonic) =
      if w.toNat / 2 ^ lo = b then some mnemonic else (rest.find? fun r => r.matchedBy w).map (fun r => r.mnemonic) := by
  rw [List.find?_cons]
  split
  · next h => rw [if_pos ((topRow_matchedBy hb w).mp h)]; rfl
  · next h => rw [if_neg (fun e => by simp [(topRow_matchedBy hb w).mpr e] at h)]

/-- The first row a command word meets, by the word's top bits. -/
theorem find?_commandRows (w : Word) : (commandRows.find? fun r => r.matchedBy w).map (fun r => r.mnemonic) =
    if w.toNat / 2 ^ 28 = 0 then some "NOP"
    else if w.toNat / 2 ^ 20 = 0x1FF then some "SFX_STOP"
    else if w.toNat / 2 ^ 20 = 0x1FE then some "SFX_RELEASE"
    else if w.toNat / 2 ^ 27 = 2 then some "SFX_PLAY"
    else if w.toNat / 2 ^ 27 = 3 then some "SFX_RESERVED"
    else if w.toNat / 2 ^ 28 = 2 then some "MUSIC"
    else if w.toNat / 2 ^ 28 = 3 then some "PULL"
    else if w.toNat / 2 ^ 30 = 1 then some "RESERVED_OP_4_7"
    else if w.toNat / 2 ^ 31 = 1 then some "RESERVED_OP_8_F"
    else none := by
  rw [commandRows_eq]
  simp (disch := decide) only [find?_topRow_cons]
  rfl

/-- The first row a command word meets is that of the instruction it decodes to. -/
theorem CommandCase.row {w : Word} {i : Instr} (h : CommandCase w i) :
    (commandRows.find? fun r => r.matchedBy w).map (fun r => r.mnemonic) = some i.mnemonic := by
  have hop := toNat_extract w 28 4
  have hn := toNat_extract w 20 8
  have hi := BitVec.toInt_eq_toNat_cond (w.extractLsb' 20 8)
  rw [find?_commandRows]
  cases h with
  | nop h =>
    rw [if_pos (by bv_omega)]
    rfl
  | sfxStop h hn =>
    rw [if_neg (by bv_omega), if_pos (by bv_omega)]
    rfl
  | sfxRelease h hn =>
    rw [if_neg (by bv_omega), if_neg (by bv_omega), if_pos (by bv_omega)]
    rfl
  | sfxPlay h _ =>
    rw [if_neg (by bv_omega), if_neg (by bv_omega), if_neg (by bv_omega), if_pos (by bv_omega)]
    rfl
  | sfxReserved h _ =>
    iterate 4 rw [if_neg (by bv_omega)]
    rw [if_pos (by bv_omega)]
    rfl
  | music h =>
    iterate 5 rw [if_neg (by bv_omega)]
    rw [if_pos (by bv_omega)]
    rfl
  | pull h =>
    iterate 6 rw [if_neg (by bv_omega)]
    rw [if_pos (by bv_omega)]
    rfl
  | reservedOp47 h =>
    have htop := toNat_extract w 30 2
    iterate 7 rw [if_neg (by bv_omega)]
    rw [if_pos (by bv_omega)]
    rfl
  | reservedOp8F h =>
    have htop := toNat_extract w 31 1
    iterate 8 rw [if_neg (by bv_omega)]
    rw [if_pos (by bv_omega)]
    rfl

/-- The rows that look at one field of a word, by the word's bits under their mask. -/
theorem filter_matchedBy {n : Nat} {rows : List (Row n)} {mask : BitVec n} (h : ∀ r ∈ rows, r.mask = mask) (w : BitVec n) :
    (rows.filter fun r => r.matchedBy w) = rows.filter fun r => w &&& mask == r.bits :=
  List.filter_congr fun r hr => by rw [Row.matchedBy, h r hr]

/-- The bits of an effect are those of its row alone. -/
theorem effectRows_effectBits (e : Effect) (f : NoteFields) :
    (effectRows.filter fun r => 0#1 ++ effectBits e ++ 0#12 == r.bits).map (fun r => r.mnemonic) =
      [(effectInstr { effect := e, fields := f }).mnemonic] := by
  cases e <;> rfl

/-- A note word meets the row of its effect alone among the note_effect rows. -/
theorem filter_effectRows (w : NoteWord) :
    (effectRows.filter fun r => r.matchedBy w).map (fun r => r.mnemonic) = [(decodeNoteEffect w).mnemonic] := by
  rw [filter_matchedBy (mask := 0x7000#16) (by decide), and_effectMask, ← decodeNote_effectBits]
  exact effectRows_effectBits (decodeNote w).effect (decodeNote w).fields

/-- A note word meets the row of its waveform alone among the note_wave rows. -/
theorem filter_waveRows (w : NoteWord) :
    (waveRows.filter fun r => r.matchedBy w).map (fun r => r.mnemonic) = [(decodeNoteWave w).mnemonic] := by
  have hmask : (0x01C0#16 : NoteWord) = 0#1 ++ 0#6 ++ 7#3 ++ 0#6 := rfl
  rw [filter_matchedBy (mask := 0x01C0#16) (by decide), hmask, and_waveMask, BitVec.and_zero,
    ← decodeNote_waveformBits, decodeNoteWave]
  cases (decodeNote w).fields.wave <;> rfl

/-- Settles O4: the rows are conditions on the fields the decoder reads. -/
theorem rowOfWord : Obligations.RowOfWord :=
  ⟨fun w => (commandCase_decodeCommand w).row, filter_effectRows, filter_waveRows⟩

/-! ## The fields of a note as numbers -/

theorem decodeNote_custom_toNat (w : NoteWord) : (decodeNote w).fields.custom.toNat = w.toNat / 32768 := by
  have htop : (decodeNote w).fields.custom.toNat = w.toNat / 2 ^ 15 % 2 := Nat.toNat_testBit w.toNat 15
  omega

theorem decodeNote_wave_toNat (w : NoteWord) : (waveformBits (decodeNote w).fields.wave).toNat = w.toNat / 64 % 8 := by
  rw [decodeNote_waveformBits]
  exact toNat_extract w 6 3

/-- Settles O5: each field is a run of bits of the word. -/
theorem noteFieldPlaces : Obligations.NoteFieldPlaces := by
  intro w
  have hpitch : (decodeNote w).fields.pitch.val = w.toNat / 2 ^ 0 % 2 ^ 6 := toNat_extract w 0 6
  have hvolume : (decodeNote w).fields.volume.val = w.toNat / 2 ^ 9 % 2 ^ 3 := toNat_extract w 9 3
  have heffect : (effectBits (decodeNote w).effect).toNat = w.toNat / 2 ^ 12 % 2 ^ 3 := by
    rw [decodeNote_effectBits, toNat_extract]
  refine ⟨by omega, decodeNote_wave_toNat w, hvolume, heffect, decodeNote_custom_toNat w, ?_⟩
  rw [waveformId, decodeNote_custom_toNat, decodeNote_wave_toNat]

/-- Settles O1: the nine words of R107, decoded. -/
theorem specWordsDecode : Obligations.SpecWordsDecode := by
  unfold Obligations.SpecWordsDecode
  decide

end Sys2Proof
end

section
/-! SUPPORT. The note selectors issued alone (log 5): the one meaning of the effects and of the waveforms, and when the bench
takes an act; and the custom bit (30_encoding.md R114). -/

namespace Sys2Proof.Machine

/-! ## The custom bit -/

/-- Settles O44: scheduling reads the pitch, the volume and the waveform of a note only. -/
theorem customBit : Obligations.CustomBit := by
  refine ⟨fun w => ?_, fun lit v k e note b => ?_⟩
  · have hlt := (waveformBits (decodeNote w).fields.wave).isLt
    simp only [waveformId]
    omega
  · cases e <;> rfl

/-! ## The meaning of a selector -/

section Selectors
variable {s : State}

/-- Every effect selector is a scheduling on the bench with a note of that effect. -/
theorem exec_effectInstr (p : PackedNote) (s : State) :
    exec (effectInstr p) s = .next (s.scheduleOnBench fun v k => v.scheduleNote s.cfg.lit k p) := by
  obtain ⟨e, f⟩ := p
  cases e <;> rfl

/-- Every waveform selector is a sample on the bench with that waveform's oscillator step. -/
theorem exec_waveInstr (w : Waveform) (custom : Bool) (s : State) :
    exec (waveInstr w custom) s = .next (s.renderOnBench (oscStep w)) := by
  cases w <;> rfl

/-! ## When the bench takes an act -/

theorem State.CanSchedule.playable_eq {b : Bench} {k : Fin 32} (h : s.CanSchedule b k) : b.voice.playable = some k :=
  playable_eq_some.mpr ⟨h.at_step.symm, h.at_step ▸ h.playable⟩

/-- A bench voice that can schedule step `k` does. -/
theorem scheduleOnBench_of_canSchedule {b : Bench} {k : Fin 32} (h : s.CanSchedule b k) (rule : Voice → Fin 32 → Voice) :
    s.scheduleOnBench rule = { s with bench := some { b with voice := rule b.voice k } } := by
  simp only [State.scheduleOnBench, h.on_bench, h.no_task, h.playable_eq]

/-- Where no bench voice can schedule a step, a scheduling does nothing. -/
theorem scheduleOnBench_of_not_canSchedule (h : ∀ b k, ¬ s.CanSchedule b k) (rule : Voice → Fin 32 → Voice) :
    s.scheduleOnBench rule = s := by
  unfold State.scheduleOnBench
  split
  · rfl
  · next b hb =>
    split
    · next k ht hk =>
      obtain ⟨hstep, hlast⟩ := playable_eq_some.mp hk
      exact absurd ⟨hb, ht, hstep.symm, hstep ▸ hlast⟩ (h b k)
    · rfl
    · rfl

theorem State.CanRender.complete_eq {b : Bench} {task : RenderTask} {m : Exact} (h : s.CanRender b task m) :
    task.complete s.cfg = false :=
  decide_eq_false (not_le.mpr h.not_complete)

/-- A bench voice that can render a sample of its task does. -/
theorem renderOnBench_of_canRender {b : Bench} {task : RenderTask} {m : Exact} (h : s.CanRender b task m) (step : OscFn) :
    s.renderOnBench step =
      s.afterRender b task (renderSample step s.cfg b.voice.active task b.voice.osc s.draws m).mixed
        (renderSample step s.cfg b.voice.active task b.voice.osc s.draws m).osc
        (renderSample step s.cfg b.voice.active task b.voice.osc s.draws m).draws := by
  simp only [State.renderOnBench, h.on_bench, h.queued, h.at_cursor, h.complete_eq]
  rfl

/-- Where no bench voice can render a sample, a sample on the bench does nothing. -/
theorem renderOnBench_of_not_canRender (h : ∀ b task m, ¬ s.CanRender b task m) (step : OscFn) : s.renderOnBench step = s := by
  obtain he | ⟨b, task, m, -, hr, -⟩ := renderOnBench_cases s step
  · exact he
  · exact absurd hr (h b task m)

/-- The process operation over one sample, of a task that is not complete, renders that sample. -/
theorem renderFrom_singleton {cfg : Cfg} {task : RenderTask} (h : task.complete cfg = false) (active : Bool) (m : Exact)
    (o : OscState) (draws : Nat) :
    renderFrom cfg active [m] task o draws =
      { mix := [(renderSample (oscStep task.wave) cfg active task o draws m).mixed], used := 1, task := task.tick
        osc := (renderSample (oscStep task.wave) cfg active task o draws m).osc
        draws := (renderSample (oscStep task.wave) cfg active task o draws m).draws } := by
  simp only [renderFrom, h]
  rfl

/-- A block that is not halted takes a voice selection (20_memory.md R93). -/
theorem step_selectVoice {slot : SlotId} {rest : List Input} (e : s.stream = .selectVoice slot :: rest) (hh : s.halted = none) :
    step s = .next ({ s with stream := rest }.selectVoice slot) := by
  have hp : s.pending = .done ({ s with stream := rest }.selectVoice slot) := by simp only [State.pending, e, hh]
  simp only [step, hp]

end Selectors

/-- Settles O51: each selector runs the PULL's own function on the bench voice, where that can take the act. -/
theorem selectorsAreThePulls : Obligations.SelectorsAreThePulls := by
  refine ⟨fun s slot rest e hfault hstuck => ?_, fun s b k note scheduled hb hs => ?_, fun s b task m custom hr => ?_,
    fun s p h => ?_, fun s w custom h => ?_⟩
  · have hv : ({ s with stream := rest } : State).voice slot = s.voice slot := by cases slot <;> rfl
    refine ⟨_, step_selectVoice e (halted_none.mpr ⟨hfault, hstuck⟩), fun hnone => ?_, fun v hsome => ?_⟩
    · rw [hv, hnone]; rfl
    · rw [hv, hsome]; rfl
  · have hrun : ∀ e, exec (effectInstr { effect := e, fields := note }) s = .next (scheduled e) := fun e => by
      rw [exec_effectInstr, scheduleOnBench_of_canSchedule hb, hs]
    exact ⟨hrun .none, hrun .slide, hrun .vibrato, hrun .drop, hrun .fadeIn, hrun .fadeOut, hrun .arpFast, hrun .arpSlow⟩
  · refine ⟨_, _, _, renderFrom_singleton hr.complete_eq .., ?_⟩
    rw [exec_waveInstr, renderOnBench_of_canRender hr]
  · rw [exec_effectInstr, scheduleOnBench_of_not_canSchedule h]
  · rw [exec_waveInstr, renderOnBench_of_not_canRender h]

end Sys2Proof.Machine
end

section
/-! SUPPORT. The waveform formulas of 41_waveform_oscillator.md in real numbers: the two primitives they are made of, their
values and ranges, and their periods. -/

namespace Sys2Proof.Signal

/-! ## frac (00_scope.md R15) -/

theorem frac_nonneg (x : ℝ) : 0 ≤ frac x := Int.fract_nonneg x

theorem frac_lt_one (x : ℝ) : frac x < 1 := Int.fract_lt_one x

theorem frac_of_mem {x : ℝ} (h0 : 0 ≤ x) (h1 : x < 1) : frac x = x := Int.fract_eq_self.mpr ⟨h0, h1⟩

theorem frac_periodic : Function.Periodic frac 128 := fun x => Int.fract_add_ofNat x 128

/-! ## mod (00_scope.md R15) -/

theorem mod_nonneg (x : ℝ) {m : ℝ} (hm : 0 < m) : 0 ≤ mod x m := by
  rw [mod, mul_comm]
  exact Int.sub_floor_div_mul_nonneg x hm

theorem mod_lt (x : ℝ) {m : ℝ} (hm : 0 < m) : mod x m < m := by
  rw [mod, mul_comm]
  exact Int.sub_floor_div_mul_lt x hm

/-- A multiple of the modulus does not matter. -/
theorem mod_add_mul (x : ℝ) {m : ℝ} (hm : m ≠ 0) (k : ℤ) : mod (x + m * k) m = mod x m := by
  have hdiv : (x + m * k) / m = x / m + k := by field_simp
  simp only [mod, hdiv, Int.floor_add_intCast, Int.cast_add]
  ring

/-- The remainder is the one number of [0, m) that a multiple of `m` leads to. -/
theorem mod_eq {x y m : ℝ} (k : ℤ) (h0 : 0 ≤ y) (h1 : y < m) (hx : x = y + m * k) : mod x m = y := by
  have hm : 0 < m := h0.trans_lt h1
  have hfloor : ⌊y / m⌋ = 0 := Int.floor_eq_zero_iff.mpr ⟨div_nonneg h0 hm.le, (div_lt_one hm).mpr h1⟩
  rw [hx, mod_add_mul y hm.ne', mod, hfloor]
  simp

/-- A number differs from its remainder by a multiple of the modulus. -/
theorem exists_eq_mod_add (x m : ℝ) : ∃ k : ℤ, x = mod x m + m * k := ⟨⌊x / m⌋, by simp [mod]⟩

/-! ## The triangle of period 2 that the organ and the phaser sum (41_waveform_oscillator.md R149, R154) -/

/-- |(y mod 2) − 1|. -/
noncomputable def tent (y : ℝ) : ℝ := |mod y 2 - 1|

theorem tent_nonneg (y : ℝ) : 0 ≤ tent y := abs_nonneg _

theorem tent_le_one (y : ℝ) : tent y ≤ 1 := by
  have h0 := mod_nonneg y two_pos
  have h1 := mod_lt y two_pos
  exact abs_le.mpr ⟨by linarith, by linarith⟩

theorem tent_add_mul (y : ℝ) (k : ℤ) : tent (y + 2 * k) = tent y := by rw [tent, mod_add_mul y two_ne_zero, tent]

/-- The triangle at a number of [0, 2), plus a multiple of 2. -/
theorem tent_eq {x y : ℝ} (k : ℤ) (h0 : 0 ≤ y) (h1 : y < 2) (hx : x = y + 2 * k) : tent x = |y - 1| := by
  rw [tent, mod_eq k h0 h1 hx]

theorem tent_of_mem {y : ℝ} (h0 : 0 ≤ y) (h1 : y < 2) : tent y = |y - 1| := tent_eq 0 h0 h1 (by simp)

/-- Doubling the frequency folds the triangle once. -/
theorem tent_two_mul (y : ℝ) : tent (2 * y) = |2 * tent y - 1| := by
  obtain ⟨k, hk⟩ := exists_eq_mod_add y 2
  have h0 := mod_nonneg y two_pos
  have h1 := mod_lt y two_pos
  have htent : tent y = |mod y 2 - 1| := rfl
  rw [htent]
  by_cases hs : mod y 2 < 1
  · rw [tent_eq (y := 2 * mod y 2) (2 * k) (by linarith) (by linarith) (by push_cast; linarith),
      abs_of_neg (sub_neg.mpr hs), abs_sub_comm]
    ring_nf
  · rw [tent_eq (y := 2 * mod y 2 - 2) (2 * k + 1) (by linarith) (by linarith) (by push_cast; linarith),
      abs_of_nonneg (sub_nonneg.mpr (not_lt.mp hs))]
    ring_nf

/-- The triangle is 0 at the odd integers only. -/
theorem tent_eq_zero {y : ℝ} (h : tent y = 0) : ∃ k : ℤ, y = 2 * k + 1 := by
  obtain ⟨k, hk⟩ := exists_eq_mod_add y 2
  have h1 : mod y 2 - 1 = 0 := abs_eq_zero.mp h
  exact ⟨k, by linarith⟩

/-- The organ as a function of its second component alone, the first being the second folded. -/
theorem organ_eq_tent (x : ℝ) :
    organ x = (|2 * tent (2 * x) - 1| - 0.5 + (tent (2 * x) - 0.5) / 2 - 0.1) * 0.7 := by
  rw [← tent_two_mul, organ, show 4 * x / 2 = 2 * x by ring, show 4 * x = 2 * (2 * x) by ring]
  rfl

theorem phaser_eq_tent (x : ℝ) : phaser x = tent (2 * x) - 0.5 + (tent (2 * x * 127 / 128) - 0.5) / 2 - 0.25 := rfl

/-! ## Values and ranges -/

theorem triangle_of_mem {x : ℝ} (h0 : 0 ≤ x) (h1 : x < 1) : triangle x = (|2 * x - 1| * 2 - 1) * 0.7 := by
  rw [triangle, frac_of_mem h0 h1]

theorem triangle_mem (x : ℝ) : triangle x ∈ Set.Icc (-0.7) 0.7 := by
  have h0 := frac_nonneg x
  have h1 := frac_lt_one x
  have hle : |2 * frac x - 1| ≤ 1 := abs_le.mpr ⟨by linarith, by linarith⟩
  have hge := abs_nonneg (2 * frac x - 1)
  constructor <;> simp only [triangle] <;> linarith

theorem tilted_of_rise {x : ℝ} (h0 : 0 ≤ x) (h1 : x < 0.875) : tilted x = (x * 16 / 7 - 1) * 0.7 := by
  rw [tilted, frac_of_mem h0 (by linarith), if_pos h1]

theorem tilted_of_fall {x : ℝ} (h0 : 0.875 ≤ x) (h1 : x < 1) : tilted x = ((1 - x) * 16 - 1) * 0.7 := by
  rw [tilted, frac_of_mem (by linarith) h1, if_neg h0.not_gt]

theorem tilted_mem (x : ℝ) : tilted x ∈ Set.Icc (-0.7) 0.7 := by
  have h0 := frac_nonneg x
  have h1 := frac_lt_one x
  unfold tilted
  split_ifs with h
  · constructor <;> linarith
  · constructor <;> linarith

theorem sawtooth_of_mem {x : ℝ} (h0 : 0 ≤ x) (h1 : x < 1) : sawtooth x = (x - 0.5) * 0.9 := by
  rw [sawtooth, frac_of_mem h0 h1]

theorem sawtooth_mem (x : ℝ) : sawtooth x ∈ Set.Ico (-0.45) 0.45 := by
  have h0 := frac_nonneg x
  have h1 := frac_lt_one x
  constructor <;> simp only [sawtooth] <;> linarith

/-- The sine of a phase is at least 0 in the first half of each cycle, its end included, and only there. -/
theorem sin_nonneg_iff (x : ℝ) : 0 ≤ Real.sin (2 * Real.pi * x) ↔ frac x ≤ 0.5 := by
  have h0 := frac_nonneg x
  have h1 := frac_lt_one x
  have hpi := Real.pi_pos
  have hcycle : Real.sin (2 * Real.pi * x) = Real.sin (2 * Real.pi * frac x) := by
    rw [← Real.sin_sub_int_mul_two_pi _ ⌊x⌋, frac]
    congr 1
    ring
  rw [hcycle]
  constructor
  · intro hsin
    by_contra! hu
    have hneg : Real.sin (2 * Real.pi * frac x - 2 * Real.pi) < 0 :=
      Real.sin_neg_of_neg_of_neg_pi_lt (by nlinarith) (by nlinarith)
    rw [Real.sin_sub_two_pi] at hneg
    linarith
  · intro hu
    exact Real.sin_nonneg_of_nonneg_of_le_pi (by positivity) (by nlinarith)

/-- The equivalent form of R147. -/
theorem square_eq (x : ℝ) : square x = if frac x ≤ 0.5 then 1 / 3 else -(1 / 3) := by
  simp only [square, sin_nonneg_iff]
  split_ifs <;> norm_num

theorem square_of_mem {x : ℝ} (h0 : 0 ≤ x) (h1 : x < 1) : square x = if x ≤ 0.5 then 1 / 3 else -(1 / 3) := by
  rw [square_eq, frac_of_mem h0 h1]

theorem pulse_of_lt {lit : Literals} {x : ℝ} (h : frac x < (lit.pulseDuty : ℝ)) : pulse lit x = 1 / 3 := by
  rw [pulse, if_pos h, one_mul]

theorem pulse_of_le {lit : Literals} {x : ℝ} (h : (lit.pulseDuty : ℝ) ≤ frac x) : pulse lit x = -(1 / 3) := by
  rw [pulse, if_neg h.not_gt, neg_one_mul]

/-- The minimum is where the second component is 1/2, the maximum where it is 1. -/
theorem organ_mem (x : ℝ) : organ x ∈ Set.Icc (-0.42) 0.455 := by
  have h0 := tent_nonneg (2 * x)
  have h1 := tent_le_one (2 * x)
  rw [organ_eq_tent]
  by_cases hw : 0 ≤ 2 * tent (2 * x) - 1
  · rw [abs_of_nonneg hw]
    constructor <;> linarith
  · rw [abs_of_neg (not_le.mp hw)]
    constructor <;> linarith

/-- The two components are never 0 together, since 127 times an odd number is no multiple of 128. -/
theorem tent_phaser_pos (x : ℝ) : 0 < tent (2 * x) + tent (2 * x * 127 / 128) / 2 := by
  have h0 := tent_nonneg (2 * x)
  have h1 := tent_nonneg (2 * x * 127 / 128)
  by_contra! hle
  obtain ⟨k, hk⟩ := tent_eq_zero (y := 2 * x) (by linarith)
  obtain ⟨l, hl⟩ := tent_eq_zero (y := 2 * x * 127 / 128) (by linarith)
  have hodd : (2 * k + 1) * 127 = 128 * (2 * l + 1) := by
    have hreal : (2 * (k : ℝ) + 1) * 127 = 128 * (2 * l + 1) := by linarith
    exact_mod_cast hreal
  omega

theorem phaser_mem (x : ℝ) : phaser x ∈ Set.Ioc (-1) 0.5 := by
  have hpos := tent_phaser_pos x
  have h1 := tent_le_one (2 * x)
  have h2 := tent_le_one (2 * x * 127 / 128)
  rw [phaser_eq_tent]
  constructor <;> linarith

/-! ## Periods (41_waveform_oscillator.md R142) -/

theorem triangle_periodic : Function.Periodic triangle 128 := fun x => by simp only [triangle, frac_periodic x]

theorem tilted_periodic : Function.Periodic tilted 128 := fun x => by simp only [tilted, frac_periodic x]

theorem sawtooth_periodic : Function.Periodic sawtooth 128 := fun x => by simp only [sawtooth, frac_periodic x]

theorem square_periodic : Function.Periodic square 128 := fun x => by simp only [square_eq, frac_periodic x]

theorem pulse_periodic (lit : Literals) : Function.Periodic (pulse lit) 128 := fun x => by simp only [pulse, frac_periodic x]

theorem organ_periodic : Function.Periodic organ 128 := fun x => by
  have h2 : 2 * (x + 128) = 2 * x + 2 * (128 : ℤ) := by push_cast; ring
  rw [organ_eq_tent, h2, tent_add_mul, organ_eq_tent]

/-- In 128 cycles the first component of the phaser repeats 128 times, and the second 127 times. -/
theorem phaser_periodic : Function.Periodic phaser 128 := fun x => by
  have h2 : 2 * (x + 128) = 2 * x + 2 * (128 : ℤ) := by push_cast; ring
  have h127 : (2 * x + 2 * (128 : ℤ)) * 127 / 128 = 2 * x * 127 / 128 + 2 * (127 : ℤ) := by push_cast; ring
  rw [phaser_eq_tent, h2, h127, tent_add_mul, tent_add_mul, phaser_eq_tent]

/-- A function that repeats after the modulus has the same value at a phase and at its remainder. -/
theorem apply_mod_of_periodic {f : ℝ → ℝ} {m : ℝ} (hf : Function.Periodic f m) (x : ℝ) : f (mod x m) = f x := by
  rw [mod, mul_comm]
  exact hf.sub_int_mul_eq _

end Sys2Proof.Signal
end

section
/-! SUPPORT. The signal path in real numbers: the default waveform functions, the frequencies, the volume and the noise step of
the model have the values of the laws of Machine/Signal.lean; and the phase's advance. -/

namespace Sys2Proof.Machine

/-! ## The default waveform functions (41_waveform_oscillator.md R144–R149, R154) -/

section Shapes
variable (lit : Literals) (d : Valuation) (x : ℝ)

/-- `u` is `frac` of the phase. -/
@[simp] theorem real_u : WaveFn.u.real lit d x = Signal.frac x := by
  simp [WaveFn.u, WaveFn.real, Signal.frac]

@[simp] theorem real_scale (q : Rat) (w : WaveFn) : (WaveFn.scale q w).real lit d x = (q : ℝ) * w.real lit d x := rfl

@[simp] theorem real_shift (w : WaveFn) (q : Rat) : (w.shift q).real lit d x = w.real lit d x + (q : ℝ) := rfl

@[simp] theorem real_triHarmonic (w : WaveFn) :
    (WaveFn.triHarmonic w).real lit d x = Signal.tent (w.real lit d x) - 0.5 := by
  simp only [WaveFn.triHarmonic, WaveFn.real, real_shift, Signal.tent, Signal.mod]
  push_cast
  norm_num [sub_eq_add_neg]

theorem real_shapeTri : shapeTri.real lit d x = Signal.triangle x := by
  simp only [shapeTri, WaveFn.real, real_scale, real_shift, real_u, Signal.triangle]
  push_cast
  ring_nf

theorem real_shapeTilt : shapeTilt.real lit d x = Signal.tilted x := by
  have hturn : ((7 / 8 : Rat) : ℝ) = 0.875 := by norm_num
  simp only [shapeTilt, WaveFn.real, real_scale, real_shift, real_u, Signal.tilted, hturn]
  split_ifs <;> push_cast <;> ring

theorem real_shapeSaw : shapeSaw.real lit d x = Signal.sawtooth x := by
  simp only [shapeSaw, real_scale, real_shift, real_u, Signal.sawtooth]
  push_cast
  ring

theorem real_shapeSquare : shapeSquare.real lit d x = Signal.square x := by
  have hhalf : ((1 / 2 : Rat) : ℝ) = 0.5 := by norm_num
  simp only [shapeSquare, WaveFn.real, real_u, Signal.square_eq]
  obtain h | h := le_or_gt (Signal.frac x) 0.5
  · rw [if_pos h, hhalf, if_neg h.not_gt]
    norm_num
  · rw [if_neg h.not_ge, hhalf, if_pos h]
    norm_num

theorem real_shapePulse : shapePulse.real lit d x = Signal.pulse lit x := by
  simp only [shapePulse, WaveFn.real, real_u, Signal.pulse]
  split_ifs <;> norm_num

theorem real_shapeOrgan : shapeOrgan.real lit d x = Signal.organ x := by
  have hfold : Signal.tent (((4 : Rat) : ℝ) * x) = |2 * Signal.tent (2 * x) - 1| := by
    rw [← Signal.tent_two_mul]
    push_cast
    ring_nf
  simp only [shapeOrgan, WaveFn.real, real_scale, real_shift, real_triHarmonic, Signal.organ_eq_tent, hfold]
  push_cast
  ring

theorem real_shapePhaser : shapePhaser.real lit d x = Signal.phaser x := by
  have hy : ((127 / 64 : Rat) : ℝ) * x = 2 * x * 127 / 128 := by push_cast; ring
  simp only [shapePhaser, WaveFn.real, real_scale, real_shift, real_triHarmonic, Signal.phaser_eq_tent, hy]
  push_cast
  ring

end Shapes

/-- A waveform function that repeats after 128 has the same value at a phase and at that phase modulo 128 (R142). -/
theorem apply_mod_phaseMod {lit : Literals} {d : Valuation} {fn : WaveFn} {shape : ℝ → ℝ}
    (hreal : ∀ y, fn.real lit d y = shape y) (hp : Function.Periodic shape 128) (x : Exact) :
    (fn.apply lit (x.mod 128)).val d = (fn.apply lit x).val d := by
  have hmod : (x.mod 128).val d = Signal.mod (x.val d) 128 := by simp [Signal.mod]
  rw [val_apply, val_apply, hreal, hreal, hmod, Signal.apply_mod_of_periodic hp]

/-! ## The oscillator step (41_waveform_oscillator.md R141) -/

/-- The phase advances by f/SR modulo 128. -/
theorem advancePhase_phase_val (sr : Nat) (f : Exact) (o : OscState) (d : Valuation) :
    (advancePhase sr f o).phase.val d = Signal.nextPhase (o.phase.val d) (f.val d) (sr : ℝ) := by
  have hinc : (phaseInc sr f).val d = f.val d / (sr : ℝ) := by
    rw [phaseInc, val_scale]
    push_cast
    ring
  simp only [advancePhase, val_mod, val_add, hinc, Config.phaseMod, Rat.cast_ofNat, Signal.nextPhase, Signal.mod]

/-- The step of a waveform that is a function of the phase. -/
theorem oscillatesAs_shapedStep (fn : WaveTable → WaveFn) :
    OscillatesAs (fun cfg => shapedStep (fn cfg.waves) cfg) fn := fun cfg f o _ =>
  ⟨(advancePhase cfg.rate f o).phase, rfl, rfl, fun _ => ⟨advancePhase_phase_val .., val_apply ..⟩⟩

/-! ## Pitch and frequency (42_envelope_renderer.md R171, R174, R177, R178) -/

/-- ROM[k] = pf(k/2), the rational entries being octaves of 440 Hz. -/
theorem romEntry_val (k : Fin 128) (d : Valuation) : (romEntry k).val d = Signal.pitchHz ((k.val : ℝ) / 2) := by
  unfold romEntry
  split_ifs with h
  · obtain ⟨m, hm⟩ : ∃ m, k.val = 24 * m + 18 := ⟨k.val / 24, by omega⟩
    have hdiv : k.val / 24 = m := by omega
    have hexp : (((24 * m + 18 : ℕ) : ℝ) / 2 - 33) / 12 = (m : ℝ) - 2 := by push_cast; ring
    have hfour : (2 : ℝ) ^ (2 : ℝ) = 4 := by norm_num
    rw [hdiv, hm, val_rat, Signal.pitchHz, hexp, Real.rpow_sub two_pos, Real.rpow_natCast, hfour]
    push_cast
    ring
  · rfl

/-- The frequency of a pitch is the formula's. -/
theorem pf_val (p : Fin 64) (d : Valuation) : (pf p).val d = Signal.pitchHz (p.val : ℝ) := by
  rw [pf, romEntry_val]
  congr 1
  push_cast
  ring

/-- The frequency of any rational pitch is the formula's, a ROM entry or not. -/
theorem pfAt_val (q : Rat) (d : Valuation) : (pfAt q).val d = Signal.pitchHz (q : ℝ) := by
  unfold pfAt
  split_ifs with h
  · obtain ⟨hden, hnum, -⟩ := h
    have hq : (((2 * q).num.toNat : ℤ) : ℚ) = 2 * q := by
      rw [Int.toNat_of_nonneg hnum]
      exact Rat.coe_int_num_of_den_eq_one hden
    have hq' : (((2 * q).num.toNat : ℕ) : ℝ) = 2 * (q : ℝ) := by exact_mod_cast hq
    rw [romEntry_val]
    congr 1
    rw [hq']
    ring
  · rfl

/-- The frequency of a task is the law of its glide or of its vibrato. -/
theorem freqAt_val (lit : Literals) (task : RenderTask) (t : Rat) (d : Valuation) :
    (task.freqAt lit t).val d = Signal.taskFreq lit task (t : ℝ) := by
  unfold RenderTask.freqAt Signal.taskFreq
  split_ifs
  · simp only [RenderTask.vibratoFreq, Signal.vibrato, val_add, val_mul, val_sub, val_scale, val_shift, val_sinTurn, val_rat,
      pf_val, pfAt_val]
    push_cast
    ring_nf
  · simp only [RenderTask.glideFreq, Signal.glide, Signal.noteSeconds, duration, val_add, val_sub, val_scale, pf_val]
    push_cast
    ring

/-- The elapsed time of a task, as a real number. -/
theorem elapsed_cast (s : State) (task : RenderTask) : ((elapsed s.cfg.rate task : Rat) : ℝ) = s.time task := by
  simp [elapsed, State.time]

/-! ## Volume (42_envelope_renderer.md R176) -/

/-- The volume of a task is the volume law's. -/
theorem volumeAt_cast (lit : Literals) (task : RenderTask) (t : Rat) :
    ((task.volumeAt lit t : Rat) : ℝ) = Signal.taskVolume lit task (t : ℝ) := by
  have hD : Signal.noteSeconds lit task.speed = ((duration lit task.speed : Rat) : ℝ) := by
    simp [duration, Signal.noteSeconds]
  simp only [RenderTask.volumeAt, Signal.taskVolume, Signal.volume, hD, ← Rat.cast_sub, Rat.cast_lt]
  split_ifs <;> push_cast <;> rfl

/-! ## Noise (41_waveform_oscillator.md R151, R152) -/

theorem noiseScale_val (lit : Literals) (f : Exact) (d : Valuation) :
    (noiseScale lit f).val d = Signal.noiseScale lit (f.val d) := by
  have href : (noiseRef lit).val d = Signal.pitchHz (lit.noiseRefPitch.val : ℝ) := pf_val ..
  have hpos : 0 < (noiseRef lit).val d := pf_val_pos ..
  unfold noiseScale Signal.noiseScale
  rw [← href]
  split_ifs with h
  · rw [h, div_self hpos.ne', val_rat, Rat.cast_one]
  · exact val_div ..

theorem noiseBlend_val (prev scale r : Exact) (d : Valuation) :
    (noiseBlend prev scale r).val d = Signal.noiseNext (prev.val d) (scale.val d) (r.val d) := by
  simp only [noiseBlend, Signal.noiseNext, val_div, val_add, val_mul, val_shift, Rat.cast_one, add_comm (scale.val d)]

theorem noiseOutput_val (prev ns scale : Exact) (d : Valuation) :
    (noiseOutput prev ns scale).val d = Signal.noiseOutput (prev.val d) (ns.val d) (scale.val d) := by
  simp only [noiseOutput, Signal.noiseOutput, Signal.clamp, val_scale, val_clamp, val_mul, val_add, val_shift]
  push_cast
  ring_nf

/-- The output of a noise step is at most 0.7 in magnitude, being clamped. -/
theorem abs_noiseOutput_le (prev ns scale : ℝ) : |Signal.noiseOutput prev ns scale| ≤ 0.7 := by
  have hlo : (-1 : ℝ) ≤ Signal.clamp ((prev + ns) * (4 / 3) * (1.75 - scale)) (-1) 1 :=
    le_min (le_max_right _ _) (by norm_num)
  have hhi : Signal.clamp ((prev + ns) * (4 / 3) * (1.75 - scale)) (-1) 1 ≤ 1 := min_le_right _ _
  rw [Signal.noiseOutput]
  exact abs_le.mpr ⟨by linarith, by linarith⟩

/-- The phase of a noise step advances as every other waveform's. -/
theorem oscNoise_phase_val (cfg : Cfg) (f : Exact) (o : OscState) (draws : Nat) (d : Valuation) :
    (oscNoise cfg f o draws).osc.phase.val d = Signal.nextPhase (o.phase.val d) (f.val d) (cfg.rate : ℝ) :=
  advancePhase_phase_val ..

/-- The stored sample after a noise step is the blend of the one before it and the draw. -/
theorem oscNoise_ns_val (cfg : Cfg) (f : Exact) (o : OscState) (draws : Nat) (d : Valuation) :
    (oscNoise cfg f o draws).osc.ns.val d =
      Signal.noiseNext (o.ns.val d) (Signal.noiseScale cfg.lit (f.val d)) ((drawNoise o.rng draws).value.val d) := by
  rw [← noiseScale_val]
  exact noiseBlend_val ..

/-- The sample of a noise step is the noise output of the stored samples before and after it. -/
theorem oscNoise_sample_val (cfg : Cfg) (f : Exact) (o : OscState) (draws : Nat) (d : Valuation) :
    (oscNoise cfg f o draws).sample.val d =
      Signal.noiseOutput (o.ns.val d) ((oscNoise cfg f o draws).osc.ns.val d) (Signal.noiseScale cfg.lit (f.val d)) := by
  rw [← noiseScale_val]
  exact noiseOutput_val ..

/-- A draw is the next free one, or, where the reference LFSR is named, the value of its state 16 advances on. -/
theorem drawNoise_cases (rng : Option (BitVec 32)) (draws : Nat) :
    (rng = none ∧ (drawNoise rng draws).value = .draw draws ∧ (drawNoise rng draws).rng = none ∧
      (drawNoise rng draws).draws = draws + 1) ∨
    ∃ g, rng = some g ∧ (drawNoise rng draws).value = .rat (lfsrValue (lfsrRun 16 g)) ∧
      (drawNoise rng draws).rng = some (lfsrRun 16 g) ∧ (drawNoise rng draws).draws = draws := by
  rcases rng with _ | g
  · exact .inl ⟨rfl, rfl, rfl, rfl⟩
  · exact .inr ⟨g, rfl, rfl, rfl, rfl⟩

/-! ## One sample on the bench (42_envelope_renderer.md R186; log 5) -/

/-- A selector whose meaning is a sample with an oscillator step makes that step, at the task's frequency, and adds its sample
times the task's volume. -/
theorem exec_of_renderOnBench {i : Instr} {step : OscFn} (hexec : ∀ s, exec i s = .next (s.renderOnBench step)) {s : State}
    {b : Bench} {task : RenderTask} {m : Exact} (hr : s.CanRender b task m) (hactive : b.voice.active = true) :
    ∃ f mixed : Exact,
      exec i s = .next
        (s.afterRender b task mixed (step s.cfg f b.voice.osc s.draws).osc (step s.cfg f b.voice.osc s.draws).draws) ∧
      ∀ d,
        f.val d = Signal.taskFreq s.cfg.lit task (s.time task) ∧
        mixed.val d = m.val d +
          Signal.taskVolume s.cfg.lit task (s.time task) * (step s.cfg f b.voice.osc s.draws).sample.val d := by
  refine ⟨task.freqAt s.cfg.lit (elapsed s.cfg.rate task), (renderSample step s.cfg true task b.voice.osc s.draws m).mixed, ?_,
    fun d => ⟨?_, ?_⟩⟩
  · rw [hexec, renderOnBench_of_canRender hr, hactive]
    rfl
  · rw [freqAt_val, elapsed_cast]
  · simp only [renderSample, if_true, val_add, val_scale, volumeAt_cast, elapsed_cast]

/-- A selector that makes the step of a function of the phase renders that function. -/
theorem rendersShape_of_oscillatesAs {i : Instr} {step : OscFn} {fn : WaveTable → WaveFn} (hosc : OscillatesAs step fn)
    (hexec : ∀ s, exec i s = .next (s.renderOnBench step)) : RendersShape i fn := by
  intro s b task m hr hactive
  obtain ⟨f, mixed, hrun, hval⟩ := exec_of_renderOnBench hexec hr hactive
  obtain ⟨phase, hphase, hdraws, hstep⟩ := hosc s.cfg f b.voice.osc s.draws
  refine ⟨mixed, phase, by rw [hrun, hphase, hdraws], fun d => ?_⟩
  obtain ⟨hfreq, hmixed⟩ := hval d
  obtain ⟨hnext, hsample⟩ := hstep d
  exact ⟨by rw [hnext, hfreq], by rw [hmixed, hsample]⟩

end Sys2Proof.Machine
end

section
/-! SUPPORT. The obligations of the waveform oscillator (41_waveform_oscillator.md). -/

namespace Sys2Proof.Machine

open Sys2Proof.Signal

/-- Settles O34: the step is that of a function of the phase, whose default is the rule's formula. -/
theorem waveTri : Obligations.WaveTri := by
  refine ⟨oscillatesAs_shapedStep _, real_shapeTri, ?_, ?_, ?_, ?_, ?_, triangle_mem⟩ <;>
    rw [triangle_of_mem (by norm_num) (by norm_num)] <;> norm_num [abs_of_neg, abs_of_pos]

/-- Settles O35: as O34, the corner 0.875 belonging to the fall. -/
theorem waveTilt : Obligations.WaveTilt := by
  refine ⟨oscillatesAs_shapedStep _, real_shapeTilt, ?_, ?_, ?_, fun _ => tilted_of_rise, fun _ => tilted_of_fall, tilted_mem⟩
  · rw [tilted_of_rise (by norm_num) (by norm_num)]; norm_num
  · rw [tilted_of_fall (by norm_num) (by norm_num)]; norm_num
  · rw [tilted_of_rise (by norm_num) (by norm_num)]; norm_num

/-- Settles O36: as O34, the range being half-open as `frac`'s is. -/
theorem waveSaw : Obligations.WaveSaw := by
  refine ⟨oscillatesAs_shapedStep _, real_shapeSaw, ?_, ?_, ?_, sawtooth_mem⟩ <;>
    rw [sawtooth_of_mem (by norm_num) (by norm_num)] <;> norm_num

/-- Settles O37: the sine of a phase is at least 0 exactly in the first half of its cycle. -/
theorem waveSquare : Obligations.WaveSquare := by
  refine ⟨oscillatesAs_shapedStep _, real_shapeSquare, square_eq, ?_, ?_, ?_⟩ <;>
    rw [square_of_mem (by norm_num) (by norm_num)] <;> norm_num

/-- Settles O38: as O34, for every value of the literal. -/
theorem wavePulse : Obligations.WavePulse := by
  have hduty : (Config.defaultLit.pulseDuty : ℝ) = 0.3125 := by norm_num [Config.defaultLit]
  refine ⟨oscillatesAs_shapedStep _, real_shapePulse, hduty, pulse_of_le ?_, pulse_of_lt ?_, fun lit x => ?_⟩
  · rw [hduty, frac_of_mem (by norm_num) (by norm_num)]
  · rw [hduty, frac_of_mem (by norm_num) (by norm_num)]; norm_num
  · obtain h | h := lt_or_ge (frac x) (lit.pulseDuty : ℝ)
    · exact .inl ⟨pulse_of_lt h, h⟩
    · exact .inr ⟨pulse_of_le h, h⟩

/-- Settles O39: the first component is the second folded, so all is a matter of the second. -/
theorem waveOrgan : Obligations.WaveOrgan := by
  refine ⟨oscillatesAs_shapedStep _, real_shapeOrgan, ?_, ?_, ?_, ?_, organ_mem⟩ <;>
    rw [organ_eq_tent, tent_of_mem (by norm_num) (by norm_num)] <;> norm_num [abs_of_neg, abs_of_pos]

/-- Settles O40: the strict lower bound holds since the two components are never 0 together. -/
theorem wavePhaser : Obligations.WavePhaser := by
  refine ⟨oscillatesAs_shapedStep _, real_shapePhaser, ?_, ?_, ?_, phaser_mem⟩
  · rw [phaser_eq_tent, tent_of_mem (by norm_num) (by norm_num), tent_of_mem (by norm_num) (by norm_num)]
    norm_num
  · rw [phaser_eq_tent, tent_eq (y := 0) 64 (by norm_num) (by norm_num) (by norm_num),
      tent_eq (y := 1) 63 (by norm_num) (by norm_num) (by norm_num)]
    norm_num
  · rw [phaser_eq_tent, tent_of_mem (by norm_num) (by norm_num), tent_of_mem (by norm_num) (by norm_num)]
    norm_num [abs_of_neg]

/-- Settles O41: each of the seven steps is the step of a function of the phase. -/
theorem wavesRender : Obligations.WavesRender := fun custom =>
  ⟨rendersShape_of_oscillatesAs (oscillatesAs_shapedStep _) fun _ => exec_waveInstr .triangle custom _,
    rendersShape_of_oscillatesAs (oscillatesAs_shapedStep _) fun _ => exec_waveInstr .tilted custom _,
    rendersShape_of_oscillatesAs (oscillatesAs_shapedStep _) fun _ => exec_waveInstr .sawtooth custom _,
    rendersShape_of_oscillatesAs (oscillatesAs_shapedStep _) fun _ => exec_waveInstr .square custom _,
    rendersShape_of_oscillatesAs (oscillatesAs_shapedStep _) fun _ => exec_waveInstr .pulse custom _,
    rendersShape_of_oscillatesAs (oscillatesAs_shapedStep _) fun _ => exec_waveInstr .organ custom _,
    rendersShape_of_oscillatesAs (oscillatesAs_shapedStep _) fun _ => exec_waveInstr .phaser custom _⟩

/-- Settles O42: the noise step on the bench, its draw being in [−1, 1] and its output clamped. -/
theorem waveNoise : Obligations.WaveNoise := by
  intro custom s b task m hr hactive
  obtain ⟨f, mixed, hrun, hval⟩ := exec_of_renderOnBench (exec_waveInstr .noise custom) hr hactive
  refine ⟨mixed, (oscNoise s.cfg f b.voice.osc s.draws).osc.phase, (oscNoise s.cfg f b.voice.osc s.draws).osc.ns,
    (drawNoise b.voice.osc.rng s.draws).value, (drawNoise b.voice.osc.rng s.draws).rng,
    (drawNoise b.voice.osc.rng s.draws).draws, hrun, drawNoise_cases .., fun d => ?_⟩
  obtain ⟨hlo, hhi⟩ := drawNoise_mem b.voice.osc.rng s.draws d
  obtain ⟨hfreq, hmixed⟩ := hval d
  rw [← hfreq]
  exact ⟨hlo, hhi, oscNoise_phase_val .., oscNoise_ns_val .., hmixed.trans (congrArg _ (congrArg _ (oscNoise_sample_val ..))),
    abs_noiseOutput_le ..⟩

/-- Settles O43: every default repeats after 128. -/
theorem phaseModulus : Obligations.PhaseModulus := by
  refine fun lit x d => ⟨fun fn hfn => ?_, fun fn hfn => apply_mod_phaseMod (fun _ => rfl) hfn x⟩
  simp only [List.mem_cons, List.not_mem_nil, or_false] at hfn
  obtain rfl | rfl | rfl | rfl | rfl | rfl | rfl := hfn
  · exact apply_mod_phaseMod (real_shapeTri lit d) triangle_periodic x
  · exact apply_mod_phaseMod (real_shapeTilt lit d) tilted_periodic x
  · exact apply_mod_phaseMod (real_shapeSaw lit d) sawtooth_periodic x
  · exact apply_mod_phaseMod (real_shapeSquare lit d) square_periodic x
  · exact apply_mod_phaseMod (real_shapePulse lit d) (pulse_periodic lit) x
  · exact apply_mod_phaseMod (real_shapeOrgan lit d) organ_periodic x
  · exact apply_mod_phaseMod (real_shapePhaser lit d) phaser_periodic x

end Sys2Proof.Machine
end

section
/-! SUPPORT. The pitch, glide and vibrato laws of 42_envelope_renderer.md (R171, R177, R178) in real numbers: their values and
bounds. -/

namespace Sys2Proof.Signal

/-! ## Pitches (R171) -/

theorem pitchHz_mono {p q : ℝ} (h : p ≤ q) : pitchHz p ≤ pitchHz q := by
  unfold pitchHz
  gcongr
  exact one_le_two

/-- Pitches add, frequencies multiply: 12 semitones are a factor of 2. -/
theorem pitchHz_add (p q : ℝ) : pitchHz (p + q) = (2 : ℝ) ^ (q / 12) * pitchHz p := by
  have hexp : (p + q - 33) / 12 = q / 12 + (p - 33) / 12 := by ring
  rw [pitchHz, pitchHz, hexp, Real.rpow_add two_pos]
  ring

theorem pitchHz_pos (p : ℝ) : 0 < pitchHz p := by
  unfold pitchHz
  positivity

theorem pitchHz_anchor : pitchHz 33 = 440 := by simp [pitchHz]

/-- Pitch 63 is two octaves and a half above the anchor. -/
theorem pitchHz_top : pitchHz 63 = 1760 * √2 := by
  have hexp : ((63 : ℝ) - 33) / 12 = (2 : ℕ) + 1 / 2 := by norm_num
  rw [pitchHz, hexp, Real.rpow_add two_pos, Real.rpow_natCast, ← Real.sqrt_eq_rpow]
  ring

/-- Pitch 0 is two octaves and three quarters below the anchor. -/
theorem pitchHz_zero : pitchHz 0 = 55 * (2 : ℝ) ^ (1 / 4 : ℝ) := by
  have hexp : ((0 : ℝ) - 33) / 12 = 1 / 4 - (3 : ℕ) := by norm_num
  rw [pitchHz, hexp, Real.rpow_sub two_pos, Real.rpow_natCast]
  ring

theorem abs_pitchHz_top_sub_lt : |pitchHz 63 - 2489.015870| < 0.000001 := by
  have hlo : (1.414213562 : ℝ) < √2 := Real.lt_sqrt_of_sq_lt (by norm_num)
  have hhi : √2 < (1.414213563 : ℝ) := (Real.sqrt_lt' (by norm_num)).mpr (by norm_num)
  rw [pitchHz_top, abs_sub_lt_iff]
  constructor <;> linarith

theorem abs_pitchHz_zero_sub_lt : |pitchHz 0 - 65.406391| < 0.000001 := by
  have hpow : ((2 : ℝ) ^ (1 / 4 : ℝ)) ^ 4 = 2 := by
    rw [← Real.rpow_mul_natCast zero_le_two]
    norm_num
  have hlo : (1.189207112 : ℝ) < (2 : ℝ) ^ (1 / 4 : ℝ) :=
    lt_of_pow_lt_pow_left₀ 4 (by positivity) (by rw [hpow]; norm_num)
  have hhi : (2 : ℝ) ^ (1 / 4 : ℝ) < (1.189207119 : ℝ) :=
    lt_of_pow_lt_pow_left₀ 4 (by norm_num) (by rw [hpow]; norm_num)
  rw [pitchHz_zero, abs_sub_lt_iff]
  constructor <;> linarith

/-! ## The glide (R177) -/

/-- With one pitch the glide holds it. -/
theorem glide_self (p D t : ℝ) : glide p p D t = pitchHz p := by simp [glide]

/-- At half the duration the glide is halfway, in Hz. -/
theorem glide_half (p q : ℝ) {D : ℝ} (hD : D ≠ 0) : glide p q D (D / 2) = (pitchHz p + pitchHz q) / 2 := by
  have hhalf : D / 2 / D = 1 / 2 := by field_simp
  rw [glide, hhalf]
  ring

/-! ## The vibrato (R178) -/

section Vibrato
variable (lit : Literals) (p t : ℝ)

theorem vibDepth_nonneg : (0 : ℝ) ≤ (lit.vibDepth.toRat : ℝ) := by exact_mod_cast Machine.toRat_nonneg lit.vibDepth

theorem vibrato_mem : vibrato lit p t ∈ Set.Icc (pitchHz p) (pitchHz (p + (lit.vibDepth.toRat : ℝ))) := by
  have hle : pitchHz p ≤ pitchHz (p + (lit.vibDepth.toRat : ℝ)) := pitchHz_mono (le_add_of_nonneg_right (vibDepth_nonneg lit))
  have hlo := Real.neg_one_le_sin (2 * Real.pi * (lit.vibHz : ℝ) * t)
  have hhi := Real.sin_le_one (2 * Real.pi * (lit.vibHz : ℝ) * t)
  have hup := mul_nonneg (sub_nonneg.mpr hle) (neg_le_iff_add_nonneg'.mp hlo)
  have hdown := mul_nonneg (sub_nonneg.mpr hle) (sub_nonneg.mpr hhi)
  unfold vibrato
  constructor <;> linarith

/-- A vibrato starts in the middle. -/
theorem vibrato_zero : vibrato lit p 0 = (pitchHz p + pitchHz (p + (lit.vibDepth.toRat : ℝ))) / 2 := by
  rw [vibrato, mul_zero, Real.sin_zero]
  ring

/-- After a quarter of its period a vibrato is at the top. -/
theorem vibrato_quarter {t : ℝ} (h : (lit.vibHz : ℝ) * t = 1 / 4) :
    vibrato lit p t = pitchHz (p + (lit.vibDepth.toRat : ℝ)) := by
  have harg : 2 * Real.pi * (lit.vibHz : ℝ) * t = Real.pi / 2 := by
    rw [mul_assoc, h]
    ring
  rw [vibrato, harg, Real.sin_pi_div_two]
  ring

end Vibrato

end Sys2Proof.Signal
end

section
/-! SUPPORT. The ROM, and the time, volume and frequency of a task (42_envelope_renderer.md R171–R178): the model's numbers are
those of the laws. -/

namespace Sys2Proof.Machine

open Sys2Proof.Signal

/-! ## The ROM (R171, R173) -/

/-- Half a semitone above pitch `p` the lookup reads entry 2p + 1. -/
theorem pfAt_half {p : Nat} {k : Fin 128} (h : k.val = 2 * p + 1) : pfAt ((p : Rat) + 1 / 2) = romEntry k := by
  have hq : (2 * ((p : Rat) + 1 / 2)) = (k.val : Rat) := by
    rw [h]
    push_cast
    ring
  have hnum : (2 * ((p : Rat) + 1 / 2)).num = k.val := by rw [hq, Rat.num_natCast]
  have hden : (2 * ((p : Rat) + 1 / 2)).den = 1 := by rw [hq, Rat.den_natCast]
  rw [pfAt, dif_pos ⟨hden, by omega, by omega⟩]
  congr 1
  exact Fin.ext (by simp only [hnum, Int.toNat_natCast])

/-- Settles O33: every lookup is the formula of R171, and the rest is arithmetic of powers of 2. -/
theorem romContents : Obligations.RomContents := by
  intro d
  refine ⟨(romEntry_val · d), (pf_val · d), (pfAt_val · d), fun _ _ => pfAt_half, ?_, ?_, ?_, fun k l h => ?_, fun p q h => ?_,
    fun _ => pf_val .., rfl⟩
  · rw [pf_val]
    exact pitchHz_anchor
  · rw [pf_val]
    exact abs_pitchHz_top_sub_lt
  · rw [pf_val]
    simpa using abs_pitchHz_zero_sub_lt
  · have hl : (l.val : ℝ) / 2 = (k.val : ℝ) / 2 + 1 / 2 := by
      rw [h]
      push_cast
      ring
    rw [romEntry_val, romEntry_val, hl, pitchHz_add, mul_div_cancel_right₀ _ (pitchHz_pos _).ne']
    norm_num
  · rw [pf_val, pf_val, h, Nat.cast_add, pitchHz_add]
    norm_num

/-! ## Time (R174, R175) -/

theorem duration_cast (lit : Literals) (speed : Fin 256) : ((duration lit speed : Rat) : ℝ) = noteSeconds lit speed := by
  simp [duration, noteSeconds]

theorem speedDiv_pos (lit : Literals) : (0 : ℝ) < ((lit.speedDiv : ℕ) : ℝ) := by exact_mod_cast lit.speedDiv.pos

theorem noteSeconds_pos (lit : Literals) {speed : Fin 256} (h : 1 ≤ speed.val) : 0 < noteSeconds lit speed := by
  have hs : (0 : ℝ) < (speed.val : ℝ) := by exact_mod_cast h
  exact div_pos hs (speedDiv_pos lit)

/-- The elapsed time of a task that is not complete lies in its duration (R174, R175). -/
theorem elapsed_mem {cfg : Cfg} {task : RenderTask} (h : task.complete cfg = false) :
    0 ≤ elapsed cfg.rate task ∧ elapsed cfg.rate task < duration cfg.lit task.speed := by
  have hn : task.n * cfg.lit.speedDiv < task.speed.val * cfg.rate := by simpa [RenderTask.complete] using h
  have hdiv : (0 : Rat) < ((cfg.lit.speedDiv : Nat) : Rat) := by exact_mod_cast cfg.lit.speedDiv.pos
  have hrate : (0 : Rat) < (cfg.rate : Rat) := by exact_mod_cast Nat.pos_of_mul_pos_left (Nat.zero_lt_of_lt hn)
  unfold elapsed duration
  exact ⟨by positivity, (div_lt_div_iff₀ hrate hdiv).mpr (by exact_mod_cast hn)⟩

theorem taskSamples_le_iff (cfg : Cfg) (speed : Fin 256) (n : Nat) :
    taskSamples cfg speed ≤ n ↔ speed.val * cfg.rate ≤ n * cfg.lit.speedDiv := by
  rw [taskSamples, Nat.div_le_iff_le_mul_add_pred cfg.lit.speedDiv.pos, Nat.mul_comm n]
  omega

/-- N(speed) is the ceiling of R175. -/
theorem taskSamples_eq_ceil (cfg : Cfg) (speed : Fin 256) :
    taskSamples cfg speed = ⌈((speed.val : ℝ) * (cfg.rate : ℝ)) / ((cfg.lit.speedDiv : ℕ) : ℝ)⌉₊ := by
  refine eq_of_forall_ge_iff fun n => ?_
  rw [taskSamples_le_iff, Nat.ceil_le, div_le_iff₀ (speedDiv_pos cfg.lit)]
  exact_mod_cast Iff.rfl

/-- The elapsed time has reached the duration (R174) exactly when n·SPEED_DIV ≥ speed·SR. -/
theorem noteSeconds_le_elapsed_iff {cfg : Cfg} (hr : 1 ≤ cfg.rate) (speed : Fin 256) (n : Nat) :
    noteSeconds cfg.lit speed ≤ (n : ℝ) / (cfg.rate : ℝ) ↔ speed.val * cfg.rate ≤ n * cfg.lit.speedDiv := by
  have hrate : (0 : ℝ) < (cfg.rate : ℝ) := by exact_mod_cast hr
  rw [noteSeconds, div_le_div_iff₀ (speedDiv_pos cfg.lit) hrate]
  exact_mod_cast Iff.rfl

/-- Settles O30: the three tests are one inequality, and N(speed) is the least count that meets it. -/
theorem taskCompletion : Obligations.TaskCompletion := by
  refine ⟨fun cfg task hr => ?_, fun cfg speed => ?_, fun cfg => taskSamples_zero cfg 0 rfl, fun cfg hdiv hrate => ?_, rfl⟩
  · have hn : task.complete cfg = true ↔ task.speed.val * cfg.rate ≤ task.n * cfg.lit.speedDiv := decide_eq_true_iff
    exact ⟨hn, hn.trans (noteSeconds_le_elapsed_iff hr ..).symm, complete_iff task cfg⟩
  · rw [taskSamples_eq_ceil]
    exact Int.natCast_ceil_eq_ceil (by positivity)
  · rw [taskSamples, hdiv, hrate]
    rfl

/-! ## Volume (R176) -/

/-- A ramp lies between 0 and the volume it leads to. -/
theorem ramp_mem {V a b : Rat} (hV : 0 ≤ V) (ha : 0 ≤ a) (hab : a ≤ b) : 0 ≤ V * a / b ∧ V * a / b ≤ V := by
  have hb : 0 ≤ b := ha.trans hab
  rw [mul_div_assoc]
  exact ⟨by positivity, mul_le_of_le_one_right hV (div_le_one_of_le₀ hab hb)⟩

/-- Within the task's duration the volume lies between 0 and the target. -/
theorem volumeAt_mem {lit : Literals} {speed : Fin 256} {task : RenderTask} {t : Rat} (h : task.Ok speed) (h0 : 0 ≤ t)
    (hD : t < duration lit task.speed) : 0 ≤ task.volumeAt lit t ∧ task.volumeAt lit t ≤ task.vol := by
  unfold RenderTask.volumeAt
  split_ifs with hin hhold
  · exact ramp_mem h.vol_nonneg h0 hin.le
  · exact ⟨h.vol_nonneg, le_rfl⟩
  · exact ramp_mem h.vol_nonneg (by linarith) (by linarith)

/-- Settles O31: the model's volume is the law's, and a ramp does not leave its interval. -/
theorem volumeLaw : Obligations.VolumeLaw := by
  refine ⟨volumeAt_cast, fun lit speed task t h h0 hD => ?_, by norm_num [Signal.volume]⟩
  obtain ⟨hlo, hhi⟩ := volumeAt_mem h h0 hD
  exact ⟨hlo, hhi, fun _ hout => by linarith⟩

/-! ## Frequency (R177, R178) -/

theorem taskFreq_of_vibrato {lit : Literals} {task : RenderTask} (h : task.vibrato = true) (t : ℝ) :
    taskFreq lit task t = vibrato lit (task.pitch.val : ℝ) t := if_pos h

theorem taskFreq_of_not_vibrato {lit : Literals} {task : RenderTask} (h : task.vibrato = false) (t : ℝ) :
    taskFreq lit task t = glide (task.pitchFrom.val : ℝ) (task.pitch.val : ℝ) (noteSeconds lit task.speed) t :=
  if_neg (by simp [h])

/-- Settles O32: the model's frequency is the law's, and the law's values are those of the glide and of the vibrato. -/
theorem frequencyLaw : Obligations.FrequencyLaw := by
  refine ⟨fun lit task t d => ?_, by norm_num [Config.defaultLit, NonnegRat.toRat], rfl, by norm_num [Config.defaultLit]⟩
  rw [freqAt_val]
  refine ⟨rfl, fun hv hp => ?_, fun hv hs ht => ?_, fun hv => ?_⟩
  · rw [taskFreq_of_not_vibrato hv, hp, glide_self]
  · have ht' : (t : ℝ) = noteSeconds lit task.speed / 2 := by
      rw [ht, ← duration_cast]
      push_cast
      rfl
    rw [taskFreq_of_not_vibrato hv, ht', glide_half _ _ (noteSeconds_pos lit hs).ne']
  · rw [taskFreq_of_vibrato hv]
    obtain ⟨hlo, hhi⟩ := vibrato_mem lit (task.pitch.val : ℝ) t
    refine ⟨hlo, hhi, fun h0 => ?_, fun hq => vibrato_quarter lit _ ?_⟩
    · rw [h0, Rat.cast_zero, vibrato_zero]
    · rw [← Rat.cast_mul, hq]
      norm_num

end Sys2Proof.Machine
end

section
/-! SUPPORT. The loop of process (42_envelope_renderer.md R181): an equation for each of its cases, the straddling of two buffers
(R182), and the write-disabled path (R185). -/

namespace Sys2Proof.Machine

section Process
variable {cfg : Cfg} {active : Bool} {task : RenderTask} {o : OscState} {draws : Nat}

/-- A complete task consumes nothing. -/
theorem renderFrom_of_complete (h : task.complete cfg = true) (mix : List Exact) :
    renderFrom cfg active mix task o draws = { mix := mix, used := 0, task := task, osc := o, draws := draws } := by
  cases mix <;> simp [renderFrom, h]

/-- An incomplete one renders the first sample, and the rest is the run of the task one sample later. -/
theorem renderFrom_cons (h : task.complete cfg = false) (m : Exact) (rest : List Exact) :
    renderFrom cfg active (m :: rest) task o draws =
      let x := renderSample (oscStep task.wave) cfg active task o draws m
      let r := renderFrom cfg active rest task.tick x.osc x.draws
      { r with mix := x.mixed :: r.mix, used := r.used + 1 } := by
  simp [renderFrom, h]

end Process

/-- Settles O28, by induction on the first stretch: it ends, or the task is complete and stays so, or both runs render its first
sample. -/
theorem processStraddles : Obligations.ProcessStraddles := by
  rintro cfg we first second task o draws _ _ rfl rfl
  induction first generalizing task o draws with
  | nil => simp [renderFrom]
  | cons m rest ih =>
    rcases hc : task.complete cfg
    · simp [renderFrom_cons hc, ih, Nat.add_right_comm]
    · simp [renderFrom_of_complete hc]

/-- Without write enable no sample, oscillator or draw is touched. -/
theorem renderFrom_disabled (cfg : Cfg) (mix : List Exact) (task : RenderTask) (o : OscState) (draws : Nat) :
    (renderFrom cfg false mix task o draws).mix = mix ∧ (renderFrom cfg false mix task o draws).osc = o ∧
      (renderFrom cfg false mix task o draws).draws = draws := by
  induction mix generalizing task with
  | nil => exact ⟨rfl, rfl, rfl⟩
  | cons m rest ih =>
    rcases hc : task.complete cfg
    · obtain ⟨hmix, hosc, hdraws⟩ := ih task.tick
      rw [renderFrom_cons hc]
      exact ⟨congrArg (m :: ·) hmix, hosc, hdraws⟩
    · rw [renderFrom_of_complete hc]
      exact ⟨rfl, rfl, rfl⟩

/-- Settles O29: the samples consumed are counted whatever the write enable, and nothing else happens. -/
theorem writeDisabled : Obligations.WriteDisabled := by
  intro cfg mix task o draws
  obtain ⟨hmix, hosc, hdraws⟩ := renderFrom_disabled cfg mix task o draws
  have hused := renderFrom_used cfg false mix task o draws
  have htask := renderFrom_task cfg false mix task o draws
  rw [hused] at htask
  rcases hr : renderFrom cfg false mix task o draws with ⟨mix', used', task', osc', draws'⟩
  rw [hr] at hmix hosc hdraws hused htask
  rw [ProcessOut.mk.injEq]
  exact ⟨hmix, hused, htask, hosc, hdraws⟩

end Sys2Proof.Machine
end

section
/-! SUPPORT. The loop of update() (43_step_sequencer.md R219): an equation for each of its passes, the number of passes that
suffices (R223, log 7), and its unrolling by one pass. -/

namespace Sys2Proof.Machine

/-! ## One pass -/

section Pass
variable {cfg : Cfg} {v v' : Voice} {mix mix' : List Exact} {d d' : Nat} {fuel : Nat}

theorem updateLoop_of_popped {t : RenderTask} (hc : v.cursor < cfg.B) (ht : v.task = some t)
    (h : v.runTask cfg t mix d = (true, v', mix', d')) :
    updateLoop cfg (fuel + 1) v mix d = updateLoop cfg fuel v' mix' d' := by
  rw [updateLoop, if_pos hc]
  simp only [ht, h]

theorem updateLoop_of_queued {t : RenderTask} (hc : v.cursor < cfg.B) (ht : v.task = some t)
    (h : v.runTask cfg t mix d = (false, v', mix', d')) : updateLoop cfg (fuel + 1) v mix d = .alive v' mix' d' := by
  rw [updateLoop, if_pos hc]
  simp only [ht, h]

theorem updateLoop_of_playable {k : Fin 32} (hc : v.cursor < cfg.B) (ht : v.task = none) (hk : v.playable = some k) :
    updateLoop cfg (fuel + 1) v mix d = updateLoop cfg fuel (v.schedule cfg.lit k) mix d := by
  rw [updateLoop, if_pos hc]
  simp only [ht, hk]

theorem updateLoop_of_exhausted (hc : v.cursor < cfg.B) (ht : v.task = none) (hk : v.playable = none) :
    updateLoop cfg (fuel + 1) v mix d = .died v.die mix d := by
  rw [updateLoop, if_pos hc]
  simp only [ht, hk]

theorem updateLoop_of_full (hc : ¬ v.cursor < cfg.B) : updateLoop cfg (fuel + 1) v mix d = .alive v mix d := by
  rw [updateLoop, if_neg hc]

/-- A pass ends the update, whatever fuel is left, or the update goes on from another voice, buffer and count of draws. -/
theorem updateLoop_pass (cfg : Cfg) (v : Voice) (mix : List Exact) (d : Nat) :
    (∃ out, out ≠ .endless ∧ ∀ fuel, updateLoop cfg (fuel + 1) v mix d = out) ∨
    ∃ v' mix' d', ∀ fuel, updateLoop cfg (fuel + 1) v mix d = updateLoop cfg fuel v' mix' d' := by
  by_cases hc : v.cursor < cfg.B
  · rcases ht : v.task with _ | t
    · rcases hk : v.playable with _ | k
      · exact .inl ⟨.died v.die mix d, nofun, fun _ => updateLoop_of_exhausted hc ht hk⟩
      · exact .inr ⟨_, _, _, fun _ => updateLoop_of_playable hc ht hk⟩
    · rcases hr : v.runTask cfg t mix d with ⟨_ | _, v', mix', d'⟩
      · exact .inl ⟨.alive v' mix' d', nofun, fun _ => updateLoop_of_queued hc ht hr⟩
      · exact .inr ⟨_, _, _, fun _ => updateLoop_of_popped hc ht hr⟩
  · exact .inl ⟨.alive v mix d, nofun, fun _ => updateLoop_of_full hc⟩

/-- An update that ends is the same with more fuel. -/
theorem updateLoop_eq_of_le {fuel' : Nat} (h : updateLoop cfg fuel v mix d ≠ .endless) (hle : fuel ≤ fuel') :
    updateLoop cfg fuel' v mix d = updateLoop cfg fuel v mix d := by
  induction fuel generalizing v mix d fuel' with
  | zero => exact absurd rfl h
  | succ fuel ih =>
    obtain ⟨n, rfl⟩ : ∃ n, fuel' = n + 1 := ⟨fuel' - 1, by omega⟩
    obtain ⟨out, -, hout⟩ | ⟨v', mix', d', hgo⟩ := updateLoop_pass cfg v mix d
    · rw [hout, hout]
    · rw [hgo] at h
      rw [hgo, hgo]
      exact ih h (by omega)

end Pass

/-! ## Z(v) (R223) -/

section Endless
variable {v : Voice} {k : Fin 32}

theorem endlessLoop_iff : v.endlessLoop = true ↔ v.Z := by
  simp only [Voice.endlessLoop, InstrumentDef.loops, Voice.Z, Bool.and_eq_true, decide_eq_true_eq]
  constructor
  · rintro ⟨⟨⟨⟨hspeed, hloop⟩, hactive⟩, hlast⟩, hahead⟩
    exact ⟨hspeed, hloop, hactive, by omega, by omega⟩
  · rintro ⟨hspeed, hloop, hactive, hlast, hahead⟩
    exact ⟨⟨⟨⟨hspeed, hloop⟩, hactive⟩, by omega⟩, by omega⟩

theorem jumpsAfter_iff :
    v.jumpsAfter k = true ↔
      v.loop = true ∧ v.instr.loopStart.val < v.instr.loopEnd.val ∧ k.val + 1 = v.instr.loopEnd.val := by
  simp [Voice.jumpsAfter, InstrumentDef.loops, and_assoc]

/-- The step after a step that is not the loop's last is the next one (R216). -/
theorem stepAfter_of_not_jump (h : v.jumpsAfter k = false) : (v.stepAfter k).val = k.val + 1 := by
  simp [Voice.stepAfter, h]

/-- A scheduled voice meets Z only if it met it before: its loop would have been ahead of it. -/
theorem not_Z_schedule {lit : Literals} (hz : ¬ v.Z) (hk : v.playable = some k) : ¬ (v.schedule lit k).Z := by
  obtain ⟨hstep, -⟩ := playable_eq_some.mp hk
  rintro ⟨hspeed, hloop, hactive, hlast, hahead⟩
  simp only [schedule_instr, schedule_loop, schedule_lastStep, schedule_step] at *
  refine hz ⟨hspeed, hloop, hactive, hlast, ?_⟩
  rcases hj : v.jumpsAfter k
  · rw [stepAfter_of_not_jump hj] at hahead
    omega
  · obtain ⟨-, -, hend⟩ := jumpsAfter_iff.mp hj
    omega

/-- A voice of speed 0 that does not meet Z takes no loop jump. -/
theorem jumpsAfter_of_not_Z (hz : ¬ v.Z) (hs : v.instr.speed.val = 0) (hk : v.playable = some k) : v.jumpsAfter k = false := by
  obtain ⟨hstep, hlast⟩ := playable_eq_some.mp hk
  rw [← Bool.not_eq_true]
  intro hj
  obtain ⟨hloop, hactive, hend⟩ := jumpsAfter_iff.mp hj
  exact hz ⟨hs, hloop, hactive, by omega, by omega⟩

end Endless

/-! ## The number of passes (log 7) -/

/-- How far a voice whose task lacks `lacks` samples is from its end once the task is popped: the steps left at speed 0, else the
samples to the buffer end. -/
def Voice.room (cfg : Cfg) (v : Voice) (lacks : Nat) : Nat :=
  if v.instr.speed.val = 0 then 33 - v.step.val else cfg.B - (v.cursor + lacks)

/-- A number of passes within which the update ends: a queued task is popped in one, and with none queued each scheduling takes
two, its own and its task's. -/
def Voice.passesLeft (cfg : Cfg) (v : Voice) : Nat :=
  match v.task with
  | some t => 2 * v.room cfg (taskSamples cfg t.speed - t.n) + 1
  | none => 2 * v.room cfg 0

section Passes
variable {cfg : Cfg} {v v' : Voice} {mix mix' : List Exact} {d d' : Nat}

theorem passesLeft_pos (hc : v.cursor < cfg.B) : 0 < v.passesLeft cfg := by
  have hroom : 0 < v.room cfg 0 := by
    unfold Voice.room
    split <;> omega
  unfold Voice.passesLeft
  split <;> omega

theorem passesLeft_le_updateFuel (cfg : Cfg) (v : Voice) : v.passesLeft cfg ≤ updateFuel cfg := by
  have hroom : ∀ lacks, v.room cfg lacks ≤ max 33 cfg.B := fun lacks => by
    unfold Voice.room
    split <;> omega
  unfold Voice.passesLeft updateFuel
  split
  · next t _ => have := hroom (taskSamples cfg t.speed - t.n); omega
  · have := hroom 0; omega

/-- A popped task leaves a pass less. -/
theorem passesLeft_popped {t : RenderTask} (hl : mix.length = cfg.B) (ht : v.task = some t)
    (h : v.runTask cfg t mix d = (true, v', mix', d')) : v'.passesLeft cfg < v.passesLeft cfg := by
  obtain ⟨-, hcursor, -, -⟩ := runTask_popped hl h
  obtain ⟨-, rfl, -, -⟩ := runTask_true h
  simp only [Voice.passesLeft, Voice.room, ht] at hcursor ⊢
  rw [hcursor]
  simp

/-- A scheduling leaves a pass less: at speed 0 the step goes up, else the new task needs a sample. -/
theorem passesLeft_schedule {k : Fin 32} (hr : 1 ≤ cfg.rate) (hz : ¬ v.Z) (hc : v.cursor < cfg.B) (ht : v.task = none)
    (hk : v.playable = some k) : (v.schedule cfg.lit k).passesLeft cfg < v.passesLeft cfg := by
  obtain ⟨hstep, -⟩ := playable_eq_some.mp hk
  obtain ⟨t, ht', hn, hspeed⟩ := schedule_task cfg.lit v k
  simp only [Voice.passesLeft, Voice.room, ht, ht', hn, hspeed, schedule_instr, schedule_step, schedule_cursor]
  split
  · next hs =>
    rw [stepAfter_of_not_jump (jumpsAfter_of_not_Z hz hs hk)]
    omega
  · have := taskSamples_pos cfg v.instr.speed (by omega) hr
    omega

/-- The update of a voice in range that does not meet Z ends within the passes counted (R223). -/
theorem updateLoop_ne_endless {fuel : Nat} (hr : 1 ≤ cfg.rate) (hv : v.Ok cfg) (hz : ¬ v.Z) (hl : mix.length = cfg.B)
    (hfuel : v.passesLeft cfg ≤ fuel) : updateLoop cfg fuel v mix d ≠ .endless := by
  have hc := hv.cursor_lt
  induction fuel generalizing v mix d with
  | zero => exact absurd (passesLeft_pos hc) (by omega)
  | succ fuel ih =>
    rcases ht : v.task with _ | t
    · rcases hk : v.playable with _ | k
      · rw [updateLoop_of_exhausted hc ht hk]
        nofun
      · rw [updateLoop_of_playable hc ht hk]
        have hless := passesLeft_schedule hr hz hc ht hk
        exact ih (voiceOk_schedule hv k) (not_Z_schedule hz hk) hl (by omega) (by simpa using hc)
    · rcases hrun : v.runTask cfg t mix d with ⟨_ | _, v', mix', d'⟩
      · rw [updateLoop_of_queued hc ht hrun]
        nofun
      · rw [updateLoop_of_popped hc ht hrun]
        have hless := passesLeft_popped hl ht hrun
        obtain ⟨hv', -, hl'⟩ := voiceOk_runTask hv hl ht hrun
        have hz' : ¬ v'.Z := by
          obtain ⟨-, rfl, -, -⟩ := runTask_true hrun
          exact hz
        exact ih hv' hz' hl' (by omega) hv'.cursor_lt

/-! ## Unrolling an update -/

theorem updateVoice_of_not_Z (hz : ¬ v.Z) (mix : List Exact) (d : Nat) :
    updateVoice cfg v mix d = updateLoop cfg (updateFuel cfg) v mix d :=
  updateVoice_of_not_endless (Bool.eq_false_iff.mpr fun h => hz (endlessLoop_iff.mp h))

theorem CfgValid.rate_pos (h : CfgValid cfg) : 1 ≤ cfg.rate := by
  obtain ⟨hsr, -⟩ := h
  unfold Cfg.rate
  omega

theorem updateVoice_ne_endless (hcfg : CfgValid cfg) (hv : v.Ok cfg) (hz : ¬ v.Z) (hl : mix.length = cfg.B) :
    updateVoice cfg v mix d ≠ .endless := by
  rw [updateVoice_of_not_Z hz]
  exact updateLoop_ne_endless (CfgValid.rate_pos hcfg) hv hz hl (passesLeft_le_updateFuel cfg v)

/-- A pass that does not end the update is followed by the update of what it leaves. -/
theorem updateVoice_eq_of_pass (hz : ¬ v.Z) (hz' : ¬ v'.Z) (hne : updateVoice cfg v mix d ≠ .endless)
    (h : ∀ fuel, updateLoop cfg (fuel + 1) v mix d = updateLoop cfg fuel v' mix' d') :
    updateVoice cfg v mix d = updateVoice cfg v' mix' d' := by
  have hpass : updateVoice cfg v mix d = updateLoop cfg (2 * cfg.B + 79) v' mix' d' := by
    rw [updateVoice_of_not_Z hz]
    exact h _
  rw [hpass] at hne
  rw [hpass, updateVoice_of_not_Z hz']
  exact (updateLoop_eq_of_le hne (by unfold updateFuel; omega)).symm

end Passes

end Sys2Proof.Machine
end

section
/-! SUPPORT. What process and update() add to the mix buffer (42_envelope_renderer.md R186): a signal that the buffer has no part
in, silent before the voice's cursor, and at most 1 in magnitude where the waveform functions are. -/

namespace Sys2Proof.Machine

/-! ## Adding a signal to a buffer -/

@[simp] theorem zero_rat_add (x : Exact) : (Exact.rat 0).add x = x := by
  cases x <;> simp [Exact.add, Exact.asRat]

/-- A mix buffer with the number `a i` added to each sample `i`. -/
def addSignal (a : Nat → Exact) (mix : List Exact) : List Exact := mix.mapIdx fun i x => x.add (a i)

section AddSignal
variable (a b : Nat → Exact) (mix : List Exact)

@[simp] theorem addSignal_length : (addSignal a mix).length = mix.length := List.length_mapIdx

@[simp] theorem addSignal_getElem? (i : Nat) : (addSignal a mix)[i]? = mix[i]?.map fun x => x.add (a i) := List.getElem?_mapIdx

theorem addSignal_nil : addSignal a [] = [] := rfl

theorem addSignal_cons (m : Exact) : addSignal a (m :: mix) = m.add (a 0) :: addSignal (fun i => a (i + 1)) mix :=
  List.mapIdx_cons

theorem addSignal_silence (h : ∀ i, a i = .rat 0) : addSignal a mix = mix := by
  refine List.ext_getElem? fun i => ?_
  simp [h]

/-- A signal added from sample `c` on. -/
theorem addSignal_drop (c : Nat) :
    mix.take c ++ addSignal a (mix.drop c) = addSignal (fun i => if i < c then .rat 0 else a (i - c)) mix := by
  induction mix generalizing c with
  | nil => simp [addSignal_nil]
  | cons m rest ih =>
    cases c with
    | zero => simp
    | succ c => simp [addSignal_cons, ih]

/-- A signal that ends before sample `c`, and then one that begins there. -/
theorem addSignal_addSignal {c : Nat} (ha : ∀ i, c ≤ i → a i = .rat 0) (hb : ∀ i, i < c → b i = .rat 0) :
    addSignal b (addSignal a mix) = addSignal (fun i => if i < c then a i else b i) mix := by
  refine List.ext_getElem? fun i => ?_
  rcases Nat.lt_or_ge i c with h | h
  · simp [h, hb i h, Function.comp_def]
  · simp [h.not_gt, ha i h]

end AddSignal

/-! ## One sample (R176, R186) -/

section Sample
variable {cfg : Cfg} {d : Valuation}

theorem abs_shapedStep_sample_le (hw : WavesInRange cfg.lit d cfg.waves) {fn : WaveFn}
    (hfn : fn ∈ [cfg.waves.tri, cfg.waves.tilt, cfg.waves.saw, cfg.waves.square, cfg.waves.pulse, cfg.waves.organ,
      cfg.waves.phaser])
    (f : Exact) (o : OscState) (draws : Nat) : |(shapedStep fn cfg f o draws).sample.val d| ≤ 1 := by
  rw [shapedStep, val_apply]
  exact hw fn hfn _

/-- The oscillator's output is at most 1 in magnitude, that of the noise step in any case (41_waveform_oscillator.md R152, R155). -/
theorem abs_oscStep_sample_le (hw : WavesInRange cfg.lit d cfg.waves) (w : Waveform) (f : Exact) (o : OscState) (draws : Nat) :
    |(oscStep w cfg f o draws).sample.val d| ≤ 1 := by
  cases w
  case noise =>
    rw [oscStep, oscNoise_sample_val]
    exact (abs_noiseOutput_le ..).trans (by norm_num)
  all_goals exact abs_shapedStep_sample_le hw (by simp) f o draws

/-- The volume of a task that is not complete lies between 0 and 1 (42_envelope_renderer.md R176). -/
theorem volumeAt_elapsed_mem {speed : Fin 256} {task : RenderTask} (h : task.Ok speed) (hc : task.complete cfg = false) :
    0 ≤ task.volumeAt cfg.lit (elapsed cfg.rate task) ∧ task.volumeAt cfg.lit (elapsed cfg.rate task) ≤ 1 := by
  obtain ⟨h0, hD⟩ := elapsed_mem hc
  obtain ⟨hlo, hhi⟩ := volumeAt_mem h h0 hD
  exact ⟨hlo, hhi.trans h.vol_le_one⟩

/-- A sample rendered onto `m` is `m` plus what the same sample is on a silent buffer; the rest of it does not see `m`. -/
theorem renderSample_eq (step : OscFn) (cfg : Cfg) (active : Bool) (task : RenderTask) (o : OscState) (draws : Nat) (m : Exact) :
    renderSample step cfg active task o draws m = { renderSample step cfg active task o draws (.rat 0) with
      mixed := m.add (renderSample step cfg active task o draws (.rat 0)).mixed } := by
  cases active <;> simp [renderSample]

theorem abs_renderSample_le (hw : WavesInRange cfg.lit d cfg.waves) {speed : Fin 256} {task : RenderTask} (h : task.Ok speed)
    (hc : task.complete cfg = false) (active : Bool) (o : OscState) (draws : Nat) :
    |(renderSample (oscStep task.wave) cfg active task o draws (.rat 0)).mixed.val d| ≤ 1 := by
  cases active
  · simp [renderSample]
  · obtain ⟨hlo, hhi⟩ := volumeAt_elapsed_mem h hc
    have hvol : |((task.volumeAt cfg.lit (elapsed cfg.rate task) : Rat) : ℝ)| ≤ 1 := by
      rw [abs_of_nonneg (by exact_mod_cast hlo)]
      exact_mod_cast hhi
    simp only [renderSample, if_true, zero_rat_add, val_scale, abs_mul]
    exact mul_le_one₀ hvol (abs_nonneg _) (abs_oscStep_sample_le hw ..)

end Sample

/-! ## A task (R181) -/

/-- What a task adds to the `i`-th sample from where it is processed: nothing once it is complete. -/
def taskSignal (cfg : Cfg) (active : Bool) : Nat → RenderTask → OscState → Nat → Exact
  | 0, task, o, draws =>
    if task.complete cfg then .rat 0 else (renderSample (oscStep task.wave) cfg active task o draws (.rat 0)).mixed
  | i + 1, task, o, draws =>
    if task.complete cfg then .rat 0
    else
      let x := renderSample (oscStep task.wave) cfg active task o draws (.rat 0)
      taskSignal cfg active i task.tick x.osc x.draws

section Task
variable {cfg : Cfg} {active : Bool} {task : RenderTask} {o : OscState} {draws : Nat}

theorem taskSignal_of_complete (h : task.complete cfg = true) (i : Nat) : taskSignal cfg active i task o draws = .rat 0 := by
  cases i <;> simp [taskSignal, h]

/-- Processing a task adds its signal, and all else it does is what it does on a silent buffer. -/
theorem renderFrom_eq_addSignal (mix : List Exact) :
    renderFrom cfg active mix task o draws = { renderFrom cfg active (List.replicate mix.length (.rat 0)) task o draws with
      mix := addSignal (fun i => taskSignal cfg active i task o draws) mix } := by
  induction mix generalizing task o draws with
  | nil => rfl
  | cons m rest ih =>
    rcases hc : task.complete cfg
    · rw [List.length_cons, List.replicate_succ, renderFrom_cons hc, renderFrom_cons hc, renderSample_eq]
      dsimp only
      rw [ih, addSignal_cons]
      simp [taskSignal, hc]
    · rw [renderFrom_of_complete hc, renderFrom_of_complete hc, addSignal_silence _ _ fun i => taskSignal_of_complete hc i]

/-- The signal of a task ends with the samples it lacks. -/
theorem taskSignal_of_le {i : Nat} (h : taskSamples cfg task.speed - task.n ≤ i) :
    taskSignal cfg active i task o draws = .rat 0 := by
  induction i generalizing task o draws with
  | zero => exact taskSignal_of_complete ((complete_iff task cfg).mpr (by omega)) 0
  | succ i ih =>
    rcases hc : task.complete cfg
    · simp only [taskSignal, hc]
      exact ih (by rw [tick_speed, tick_n]; omega)
    · exact taskSignal_of_complete hc _

theorem abs_taskSignal_le {d : Valuation} (hw : WavesInRange cfg.lit d cfg.waves) {speed : Fin 256} (h : task.Ok speed) (i : Nat) :
    |(taskSignal cfg active i task o draws).val d| ≤ 1 := by
  induction i generalizing task o draws with
  | zero =>
    rcases hc : task.complete cfg
    · simpa [taskSignal, hc] using abs_renderSample_le hw h hc active o draws
    · simp [taskSignal_of_complete hc]
  | succ i ih =>
    rcases hc : task.complete cfg
    · simp only [taskSignal, hc]
      exact ih (taskOk_at h _)
    · simp [taskSignal_of_complete hc]

end Task

/-! ## update() -/

/-- What a pass with task `t` adds to sample `i` of the buffer. -/
def Voice.passSignal (v : Voice) (cfg : Cfg) (t : RenderTask) (draws i : Nat) : Exact :=
  if i < v.cursor then .rat 0 else taskSignal cfg v.active (i - v.cursor) t v.osc draws

/-- The signal of a voice from sample `lo` on: silent before, and at most 1 in magnitude where the waveform functions are. -/
structure SignalFrom (cfg : Cfg) (lo : Nat) (a : Nat → Exact) : Prop where
  silent_before : ∀ i, i < lo → a i = .rat 0
  abs_le_one : ∀ d, WavesInRange cfg.lit d cfg.waves → ∀ i, |(a i).val d| ≤ 1

theorem signalFrom_silence (cfg : Cfg) (lo : Nat) : SignalFrom cfg lo fun _ => .rat 0 :=
  ⟨fun _ _ => rfl, fun _ _ _ => by simp⟩

/-- One signal up to sample `c`, and then one that begins there. -/
theorem SignalFrom.append {cfg : Cfg} {lo c : Nat} {a b : Nat → Exact} (ha : SignalFrom cfg lo a)
    (hb : SignalFrom cfg c b) (hle : lo ≤ c) :
    SignalFrom cfg lo fun i => if i < c then a i else b i where
  silent_before := fun i hi => by rw [if_pos (by omega), ha.silent_before i hi]
  abs_le_one := fun d hw i => by
    split
    · exact ha.abs_le_one d hw i
    · exact hb.abs_le_one d hw i

section Update
variable {cfg : Cfg} {v : Voice} {mix : List Exact} {draws : Nat}

theorem signalFrom_passSignal {t : RenderTask} (h : t.Ok v.instr.speed) : SignalFrom cfg v.cursor (v.passSignal cfg t draws) where
  silent_before := fun _ hi => if_pos hi
  abs_le_one := fun d hw i => by
    unfold Voice.passSignal
    split
    · simp
    · exact abs_taskSignal_le hw h _

theorem processTask_eq_addSignal (t : RenderTask) (hl : mix.length = cfg.B) :
    processTask cfg v.active v.cursor mix t v.osc draws =
      { processTask cfg v.active v.cursor (List.replicate cfg.B (.rat 0)) t v.osc draws with
        mix := addSignal (v.passSignal cfg t draws) mix } := by
  rw [processTask, renderFrom_eq_addSignal, addSignal_drop, List.length_drop, hl, ← List.drop_replicate]
  rfl

/-- A pass adds its signal, and all else it does is what it does on a silent buffer. -/
theorem runTask_eq_addSignal {t : RenderTask} {b : Bool} {v' : Voice} {mix0 : List Exact} {d' : Nat} (hl : mix.length = cfg.B)
    (h : v.runTask cfg t (List.replicate cfg.B (.rat 0)) draws = (b, v', mix0, d')) :
    v.runTask cfg t mix draws = (b, v', addSignal (v.passSignal cfg t draws) mix, d') := by
  rw [Voice.runTask, processTask_eq_addSignal t hl]
  cases b
  · obtain ⟨hge, rfl, -, rfl⟩ := runTask_false h
    exact if_neg hge.not_gt
  · obtain ⟨hlt, rfl, -, rfl⟩ := runTask_true h
    exact if_pos hlt

/-- The signal of a pass that pops its task ends at the cursor it leaves. -/
theorem passSignal_of_popped {t : RenderTask} {v' : Voice} {mix' : List Exact} {d' i : Nat} (hl : mix.length = cfg.B)
    (h : v.runTask cfg t mix draws = (true, v', mix', d')) (hi : v'.cursor ≤ i) : v.passSignal cfg t draws i = .rat 0 := by
  obtain ⟨-, hcursor, -, -⟩ := runTask_popped hl h
  unfold Voice.passSignal
  split
  · rfl
  · exact taskSignal_of_le (by omega)

@[simp] theorem withMix_withMix (out : UpdateOut) (a b : List Exact) : (out.withMix a).withMix b = out.withMix b := by
  cases out <;> rfl

theorem withMix_mix {out : UpdateOut} {a : List Exact} (h : out.withMix a ≠ .endless) : (out.withMix a).mix = a := by
  cases out
  case endless => exact absurd rfl h
  all_goals rfl

/-- An update adds a signal of its own, and all else it does the buffer has no part in. -/
theorem updateLoop_adds (fuel : Nat) (hv : v.Ok cfg) :
    ∃ (out : UpdateOut) (a : Nat → Exact), SignalFrom cfg v.cursor a ∧
      ∀ mix, mix.length = cfg.B → updateLoop cfg fuel v mix draws = out.withMix (addSignal a mix) := by
  have hc := hv.cursor_lt
  induction fuel generalizing v draws with
  | zero => exact ⟨.endless, _, signalFrom_silence .., fun _ _ => rfl⟩
  | succ fuel ih =>
    rcases ht : v.task with _ | t
    · rcases hk : v.playable with _ | k
      · refine ⟨.died v.die [] draws, _, signalFrom_silence .., fun mix _ => ?_⟩
        rw [updateLoop_of_exhausted hc ht hk, addSignal_silence _ _ fun _ => rfl]
        rfl
      · obtain ⟨out, a, ha, hout⟩ := ih (draws := draws) (voiceOk_schedule hv k) (by simpa using hc)
        refine ⟨out, a, by simpa using ha, fun mix hl => ?_⟩
        rw [updateLoop_of_playable hc ht hk, hout mix hl]
    · have hpass := signalFrom_passSignal (cfg := cfg) (draws := draws) (hv.task_ok t ht)
      have hsilence : (List.replicate cfg.B (Exact.rat 0)).length = cfg.B := List.length_replicate
      rcases hr : v.runTask cfg t (List.replicate cfg.B (.rat 0)) draws with ⟨_ | _, v', mix0, d'⟩
      · refine ⟨.alive v' [] d', _, hpass, fun mix hl => ?_⟩
        rw [updateLoop_of_queued hc ht (runTask_eq_addSignal hl hr)]
        rfl
      · obtain ⟨hv', -, -⟩ := voiceOk_runTask hv hsilence ht hr
        obtain ⟨-, hcursor, -, -⟩ := runTask_popped hsilence hr
        obtain ⟨out, a, ha, hout⟩ := ih (draws := d') hv' hv'.cursor_lt
        refine ⟨out, _, hpass.append ha (by omega), fun mix hl => ?_⟩
        rw [updateLoop_of_popped hc ht (runTask_eq_addSignal hl hr), hout _ (by rw [addSignal_length, hl]),
          addSignal_addSignal _ _ _ (fun i => passSignal_of_popped hsilence hr) ha.silent_before]

/-! ## The unrolling (43_step_sequencer.md R219–R221) -/

/-- A pass with a task queued (R219): the task is popped where process stopped and the update goes on, or process reached the
buffer end. -/
theorem updateVoice_of_task {t : RenderTask} {r : ProcessOut} (hc : v.cursor < cfg.B) (hz : ¬ v.Z)
    (hne : updateVoice cfg v mix draws ≠ .endless) (ht : v.task = some t)
    (hr : renderFrom cfg v.active (mix.drop v.cursor) t v.osc draws = r) :
    (v.cursor + r.used < cfg.B → updateVoice cfg v mix draws =
      updateVoice cfg { v with task := none, cursor := v.cursor + r.used, osc := r.osc } (mix.take v.cursor ++ r.mix) r.draws) ∧
    (cfg.B ≤ v.cursor + r.used → updateVoice cfg v mix draws =
      .alive { v with task := some r.task, cursor := 0, osc := r.osc } (mix.take v.cursor ++ r.mix) r.draws) := by
  subst hr
  refine ⟨fun hlt => ?_, fun hge => ?_⟩
  · refine updateVoice_eq_of_pass hz ?_ hne fun _ => updateLoop_of_popped hc ht (if_pos hlt)
    exact hz
  · rw [updateVoice_of_not_Z hz]
    exact updateLoop_of_queued hc ht (if_neg hge.not_gt)

/-- A pass with no task queued: the voice dies past its last step (R221), or its step is scheduled and the update goes on. -/
theorem updateVoice_of_no_task (hc : v.cursor < cfg.B) (hz : ¬ v.Z) (hne : updateVoice cfg v mix draws ≠ .endless)
    (ht : v.task = none) :
    (v.lastStep.val < v.step.val → updateVoice cfg v mix draws = .died v.die mix draws) ∧
    (∀ k : Fin 32, k.val = v.step.val → k.val ≤ v.lastStep.val →
      updateVoice cfg v mix draws = updateVoice cfg (v.schedule cfg.lit k) mix draws) := by
  refine ⟨fun hlast => ?_, fun k hk hlast => ?_⟩
  · rw [updateVoice_of_not_Z hz]
    exact updateLoop_of_exhausted hc ht (playable_eq_none.mpr hlast)
  · have hplay : v.playable = some k := playable_eq_some.mpr ⟨hk, by omega⟩
    exact updateVoice_eq_of_pass hz (not_Z_schedule hz hplay) hne fun _ => updateLoop_of_playable hc ht hplay

end Update

/-- Settles O60: an update that ends adds its own signal to the buffer, and unrolls pass by pass. -/
theorem mixAccumulates : Obligations.MixAccumulates := by
  intro cfg v mix mix2 draws hcfg hv hz hl hl2
  have hne : updateVoice cfg v mix draws ≠ .endless := updateVoice_ne_endless hcfg hv hz hl
  refine ⟨?_, fun task r ht hr => updateVoice_of_task hv.cursor_lt hz hne ht hr,
    fun ht => updateVoice_of_no_task hv.cursor_lt hz hne ht⟩
  obtain ⟨out, a, ha, hout⟩ := updateLoop_adds (draws := draws) (updateFuel cfg) hv
  simp only [← updateVoice_of_not_Z hz] at hout
  rw [hout mix hl] at hne ⊢
  refine ⟨addSignal a mix2, by rw [hout mix2 hl2, withMix_withMix], by rw [withMix_mix hne, addSignal_length, hl],
    by rw [addSignal_length, hl2], fun i d x x' y y' hx hx' hy hy' => ?_⟩
  obtain rfl : x.add (a i) = x' := by simpa [withMix_mix hne, hx] using hx'
  obtain rfl : y.add (a i) = y' := by simpa [hy] using hy'
  refine ⟨by simp, fun hw => by simpa using ha.abs_le_one d hw i, fun hi => ?_⟩
  rw [ha.silent_before i hi, add_zero_rat]

end Sys2Proof.Machine
end

section
/-! SUPPORT. The effect policy and the loop of steps (43_step_sequencer.md R203–R217): what one scheduling makes of a voice, and
the step a voice stands at after any number of steps. -/

namespace Sys2Proof.Machine

/-! ## Scheduling (R203, R214, R216) -/

/-- The step after a scheduled step (R216). -/
theorem stepAfter_val (v : Voice) (k : Fin 32) :
    (v.stepAfter k).val =
      if v.loop = true ∧ v.instr.loopStart.val < v.instr.loopEnd.val ∧ k.val + 1 = v.instr.loopEnd.val
        then v.instr.loopStart.val else k.val + 1 := by
  by_cases hj : v.jumpsAfter k = true
  · rw [if_pos (jumpsAfter_iff.mp hj), Voice.stepAfter, dif_pos hj]
  · rw [if_neg fun h => hj (jumpsAfter_iff.mpr h), stepAfter_of_not_jump (by simpa using hj)]

/-- An effect whose scheduling is `scheduleAs` with its policy and its pending fade-in has the rule of that policy. -/
theorem schedulesWith_of_scheduleAs {e : Effect} {rule : Literals → NoteFields → Voice → Policy}
    {pend : Literals → Voice → Option Rat}
    (h : ∀ (lit : Literals) (v : Voice) (k : Fin 32) (note : NoteFields),
      v.scheduleNote lit k { effect := e, fields := note } = v.scheduleAs k note (rule lit note v) (pend lit v)) :
    SchedulesWith e rule pend := by
  intro lit v k note
  refine ⟨v.stepAfter k, stepAfter_val v k, ?_⟩
  rw [h, Voice.scheduleAs, Voice.taskOf]
  rcases v.pendFade with _ | q <;> rfl

/-! ## The effects (R205–R212) -/

/-- Settles O45: the three effects have one policy. -/
theorem fxHeld : Obligations.FxHeld := by
  refine ⟨fun e he => schedulesWith_of_scheduleAs fun lit v k note => ?_, by norm_num [Config.defaultLit, NonnegRat.toRat]⟩
  simp only [List.mem_cons, List.not_mem_nil, or_false] at he
  obtain rfl | rfl | rfl := he
  · rfl
  · rfl
  · rfl

/-- Settles O46: the glide starts where the model's policy says, the pitch recorded or the literal. -/
theorem fxSlide : Obligations.FxSlide := by
  refine ⟨schedulesWith_of_scheduleAs fun lit v k note => ?_, rfl⟩
  rw [Voice.scheduleNote, Voice.fxSlide]
  rcases v.prevPitch with _ | p <;> rfl

/-- Settles O47: the model's policy is the rule's. -/
theorem fxVibrato : Obligations.FxVibrato :=
  schedulesWith_of_scheduleAs fun _ _ _ _ => rfl

/-- Settles O48: the model's policy is the rule's. -/
theorem fxDrop : Obligations.FxDrop :=
  ⟨schedulesWith_of_scheduleAs fun _ _ _ _ => rfl, rfl⟩

/-- Settles O49: the model's policy is the rule's, with D the voice's note time. -/
theorem fxFadeIn : Obligations.FxFadeIn :=
  ⟨schedulesWith_of_scheduleAs fun _ _ _ _ => rfl, by norm_num [Config.defaultLit, NonnegRat.toRat],
    by norm_num [Config.defaultLit, NonnegRat.toRat]⟩

/-- Settles O50: the model's policy is the rule's, and the pending fade-in left does not depend on the one before. -/
theorem fxFadeOut : Obligations.FxFadeOut :=
  ⟨schedulesWith_of_scheduleAs fun _ _ _ _ => rfl, by norm_num [Config.defaultLit, NonnegRat.toRat],
    by norm_num [Config.defaultLit, NonnegRat.toRat]⟩

/-! ## Steps (R216, R217) -/

section Steps
variable (lit : Literals) (v : Voice)

@[simp] theorem playStep_instr : (v.playStep lit).instr = v.instr := by
  unfold Voice.playStep
  split
  · exact schedule_instr lit v _
  · rfl

@[simp] theorem playStep_loop : (v.playStep lit).loop = v.loop := by
  unfold Voice.playStep
  split
  · exact schedule_loop lit v _
  · rfl

@[simp] theorem playStep_lastStep : (v.playStep lit).lastStep = v.lastStep := by
  unfold Voice.playStep
  split
  · exact schedule_lastStep lit v _
  · rfl

variable {lit v}

/-- A playable step is followed by the loop start or by the next step. -/
theorem playStep_step_of_playable {k : Fin 32} (hk : v.playable = some k) : (v.playStep lit).step = v.stepAfter k := by
  unfold Voice.playStep
  simp only [hk]
  exact schedule_step lit v k

/-- An exhausted voice stays as it is. -/
theorem playStep_of_exhausted (h : v.lastStep.val < v.step.val) : v.playStep lit = v := by
  unfold Voice.playStep
  simp only [playable_eq_none.mpr h]

/-- A looping voice ahead of its loop's end goes from its last step to its start. -/
theorem playStep_step_of_loop (hloop : v.loop = true) (hactive : v.instr.loopStart.val < v.instr.loopEnd.val)
    (hlast : v.instr.loopEnd.val ≤ v.lastStep.val + 1) (hahead : v.step.val + 1 ≤ v.instr.loopEnd.val) :
    (v.playStep lit).step.val = if v.step.val + 1 = v.instr.loopEnd.val then v.instr.loopStart.val else v.step.val + 1 := by
  have hk : v.playable = some ⟨v.step.val, by omega⟩ := playable_eq_some.mpr ⟨rfl, by omega⟩
  rw [playStep_step_of_playable hk, stepAfter_val]
  simp only [hloop, hactive, true_and]

/-- Of a voice that does not loop, a playable step is followed by the next one. -/
theorem playStep_step_of_released (hloop : v.loop = false) (hstep : v.step.val ≤ v.lastStep.val) :
    (v.playStep lit).step.val = v.step.val + 1 := by
  have hk : v.playable = some ⟨v.step.val, by omega⟩ := playable_eq_some.mpr ⟨rfl, hstep⟩
  rw [playStep_step_of_playable hk, stepAfter_val]
  simp [hloop]

/-- The step after `i` steps of a looping voice: up to the loop's end, then around the loop. -/
theorem playSteps_step_of_loop (i : Nat) (hloop : v.loop = true) (hactive : v.instr.loopStart.val < v.instr.loopEnd.val)
    (hlast : v.instr.loopEnd.val ≤ v.lastStep.val + 1) (hahead : v.step.val + 1 ≤ v.instr.loopEnd.val) :
    (v.playSteps lit i).step.val =
      if v.step.val + i < v.instr.loopEnd.val then v.step.val + i
      else v.instr.loopStart.val +
        (v.step.val + i - v.instr.loopEnd.val) % (v.instr.loopEnd.val - v.instr.loopStart.val) := by
  induction i generalizing v with
  | zero => exact (if_pos (by omega)).symm
  | succ i ih =>
    have hnext := playStep_step_of_loop (lit := lit) hloop hactive hlast hahead
    have hih := ih (v := v.playStep lit) (by simpa using hloop) (by simpa using hactive) (by simpa using hlast)
      (by rw [hnext, playStep_instr]; split <;> omega)
    rw [playStep_instr, hnext] at hih
    rw [Voice.playSteps, hih]
    by_cases hend : v.step.val + 1 = v.instr.loopEnd.val
    · have hover : v.step.val + (i + 1) - v.instr.loopEnd.val = i := by omega
      simp only [if_pos hend, if_neg (show ¬ v.step.val + (i + 1) < v.instr.loopEnd.val by omega), hover]
      by_cases hi : v.instr.loopStart.val + i < v.instr.loopEnd.val
      · rw [if_pos hi, Nat.mod_eq_of_lt (by omega)]
      · have hround : v.instr.loopStart.val + i - v.instr.loopEnd.val = i - (v.instr.loopEnd.val - v.instr.loopStart.val) := by
          omega
        rw [if_neg hi, hround, ← Nat.mod_eq_sub_mod (by omega)]
    · simp only [if_neg hend, Nat.add_right_comm _ 1 i, Nat.add_assoc]

/-- The step after `i` steps of a voice that does not loop: the steps rise to the last one, and the voice is exhausted. -/
theorem playSteps_step_of_released (i : Nat) (hloop : v.loop = false) (hstep : v.step.val ≤ v.lastStep.val + 1) :
    (v.playSteps lit i).step.val = min (v.step.val + i) (v.lastStep.val + 1) := by
  induction i generalizing v with
  | zero =>
    rw [Voice.playSteps]
    omega
  | succ i ih =>
    rw [Voice.playSteps]
    by_cases hplay : v.step.val ≤ v.lastStep.val
    · have hnext := playStep_step_of_released (lit := lit) hloop hplay
      rw [ih (by simpa using hloop) (by rw [hnext, playStep_lastStep]; omega), hnext, playStep_lastStep]
      omega
    · rw [playStep_of_exhausted (by omega), ih hloop hstep]
      omega

end Steps

/-- Settles O52: by induction on the number of steps, with the loop on and with the loop off. -/
theorem loopSteps : Obligations.LoopSteps :=
  ⟨fun _ _ i hloop hactive hlast hahead => playSteps_step_of_loop i hloop hactive hlast hahead,
    fun _ _ i hloop hstep => playSteps_step_of_released i hloop (by omega)⟩

end Sys2Proof.Machine
end

section
/-! SUPPORT. How long a voice lives (43_step_sequencer.md R219–R224): the loop jumps and Z(v) through an update, the samples a
voice without jumps still needs, and where an update ends. -/

namespace Sys2Proof.Machine

section Lifetimes
variable {cfg : Cfg} {v v' : Voice} {mix mix' : List Exact} {d d' : Nat} {k : Fin 32}

/-! ## Loop jumps (R216) -/

/-- A voice takes loop jumps when its loop is on, active, ahead of its step and within its last step. -/
theorem not_noJumps_iff :
    ¬ v.NoJumps ↔ v.loop = true ∧ v.instr.loopStart.val < v.instr.loopEnd.val ∧ v.step.val < v.instr.loopEnd.val ∧
      v.instr.loopEnd.val ≤ v.lastStep.val + 1 := by
  simp only [Voice.NoJumps, not_or, not_le, not_lt, Bool.not_eq_false]

/-- Z(v) is that the speed is 0 and the voice takes loop jumps (R223). -/
theorem Z_iff : v.Z ↔ v.instr.speed.val = 0 ∧ ¬ v.NoJumps := by
  rw [not_noJumps_iff]
  constructor
  · rintro ⟨hspeed, hloop, hactive, hlast, hahead⟩
    exact ⟨hspeed, hloop, hactive, by omega, by omega⟩
  · rintro ⟨hspeed, hloop, hactive, hahead, hlast⟩
    exact ⟨hspeed, hloop, hactive, by omega, by omega⟩

theorem not_Z_of_noJumps (h : v.NoJumps) : ¬ v.Z := fun hz => (Z_iff.mp hz).2 h

theorem not_Z_of_speed_pos (h : 1 ≤ v.instr.speed.val) : ¬ v.Z := fun hz => by
  have := (Z_iff.mp hz).1
  omega

/-- A voice that takes no loop jump is not before one. -/
theorem jumpsAfter_of_noJumps (h : v.NoJumps) (hk : v.playable = some k) : v.jumpsAfter k = false := by
  obtain ⟨hstep, hlast⟩ := playable_eq_some.mp hk
  rw [← Bool.not_eq_true]
  intro hj
  obtain ⟨hloop, hactive, hend⟩ := jumpsAfter_iff.mp hj
  exact not_noJumps_iff.mpr ⟨hloop, hactive, by omega, by omega⟩ h

/-- A scheduling does not change whether a voice takes loop jumps: a jump leads back into the loop. -/
theorem noJumps_schedule_iff (lit : Literals) (hk : v.playable = some k) : (v.schedule lit k).NoJumps ↔ v.NoJumps := by
  obtain ⟨hstep, -⟩ := playable_eq_some.mp hk
  rw [← not_iff_not, not_noJumps_iff, not_noJumps_iff, schedule_loop, schedule_instr, schedule_lastStep, schedule_step,
    stepAfter_val]
  constructor
  · rintro ⟨hloop, hactive, hahead, hlast⟩
    refine ⟨hloop, hactive, ?_, hlast⟩
    split at hahead <;> omega
  · rintro ⟨hloop, hactive, hahead, hlast⟩
    refine ⟨hloop, hactive, ?_, hlast⟩
    split
    · exact hactive
    · next hj =>
      have hend : k.val + 1 ≠ v.instr.loopEnd.val := fun he => hj ⟨hloop, hactive, he⟩
      omega

theorem Z_schedule_iff (lit : Literals) (hk : v.playable = some k) : (v.schedule lit k).Z ↔ v.Z := by
  rw [Z_iff, Z_iff, noJumps_schedule_iff lit hk, schedule_instr]

/-- Nor does a pass with a task: it leaves the step. -/
theorem noJumps_runTask_iff {b : Bool} {t : RenderTask} (h : v.runTask cfg t mix d = (b, v', mix', d')) :
    v'.NoJumps ↔ v.NoJumps := by
  cases b with
  | true =>
    obtain ⟨-, rfl, -, -⟩ := runTask_true h
    exact Iff.rfl
  | false =>
    obtain ⟨-, rfl, -, -⟩ := runTask_false h
    exact Iff.rfl

/-- A voice that takes loop jumps is never exhausted. -/
theorem noJumps_of_exhausted (h : v.playable = none) : v.NoJumps := by
  have hlast := playable_eq_none.mp h
  by_contra hj
  obtain ⟨-, -, hahead, hend⟩ := not_noJumps_iff.mp hj
  omega

/-! ## Z(v) (R223) -/

/-- Process spends no sample on a task of speed 0, and the pass pops it. -/
theorem runTask_of_speed_zero {t : RenderTask} (hc : v.cursor < cfg.B) (hs : t.speed.val = 0) :
    ∃ v' mix' d', v.runTask cfg t mix d = (true, v', mix', d') := by
  refine ⟨_, _, _, if_pos ?_⟩
  rw [processTask_used, taskSamples_zero cfg t.speed hs]
  omega

/-- The update of a voice that meets Z does not end: it schedules and pops tasks of no duration for ever. -/
theorem updateLoop_endless_of_Z (hv : v.Ok cfg) (hl : mix.length = cfg.B) (hz : v.Z) (fuel : Nat) :
    updateLoop cfg fuel v mix d = .endless := by
  induction fuel generalizing v mix d with
  | zero => rfl
  | succ fuel ih =>
    have hc := hv.cursor_lt
    rcases ht : v.task with _ | t
    · rcases hk : v.playable with _ | k
      · exact absurd hz (not_Z_of_noJumps (noJumps_of_exhausted hk))
      · rw [updateLoop_of_playable hc ht hk]
        exact ih (voiceOk_schedule hv k) hl ((Z_schedule_iff cfg.lit hk).mpr hz)
    · have hs : t.speed.val = 0 := by
        rw [(hv.task_ok t ht).same_speed]
        exact (Z_iff.mp hz).1
      obtain ⟨v', mix', d', hr⟩ := runTask_of_speed_zero (mix := mix) (d := d) hc hs
      obtain ⟨hv', -, hl'⟩ := voiceOk_runTask hv hl ht hr
      rw [updateLoop_of_popped hc ht hr]
      refine ih hv' hl' ?_
      obtain ⟨-, rfl, -, -⟩ := runTask_true hr
      exact hz

/-! ## Where an update ends (R219–R222) -/

/-- What the passes of an update of voice `u` keep: the ranges, whether loop jumps are taken, and, where none is, the buffer
index at which the samples run out. -/
structure OnCourse (cfg : Cfg) (u v : Voice) (mix : List Exact) (_ : Nat) : Prop where
  in_range : v.Ok cfg
  mix_length : mix.length = cfg.B
  noJumps_iff : v.NoJumps ↔ u.NoJumps
  stop_eq : v.NoJumps → v.cursor + v.samplesLeft cfg = u.cursor + u.samplesLeft cfg

theorem onCourse_self (hv : v.Ok cfg) (hl : mix.length = cfg.B) : OnCourse cfg v v mix d :=
  ⟨hv, hl, Iff.rfl, fun _ => rfl⟩

theorem samplesLeft_of_task {t : RenderTask} (ht : v.task = some t) :
    v.samplesLeft cfg = (taskSamples cfg v.instr.speed - t.n) +
      (v.lastStep.val + 1 - v.step.val) * taskSamples cfg v.instr.speed := by
  rw [Voice.samplesLeft, ht]

theorem samplesLeft_of_no_task (ht : v.task = none) :
    v.samplesLeft cfg = (v.lastStep.val + 1 - v.step.val) * taskSamples cfg v.instr.speed := by
  rw [Voice.samplesLeft, ht, Nat.zero_add]

/-- Without a jump, the samples of a scheduled task are those of the step it was scheduled for. -/
theorem samplesLeft_schedule (hn : v.NoJumps) (ht : v.task = none) (hk : v.playable = some k) :
    (v.schedule cfg.lit k).samplesLeft cfg = v.samplesLeft cfg := by
  obtain ⟨hstep, hlast⟩ := playable_eq_some.mp hk
  obtain ⟨t, ht', hzero, -⟩ := schedule_task cfg.lit v k
  rw [samplesLeft_of_task ht', samplesLeft_of_no_task ht, schedule_instr, schedule_lastStep, schedule_step,
    stepAfter_of_not_jump (jumpsAfter_of_noJumps hn hk), hzero, Nat.sub_zero, hstep,
    show v.lastStep.val + 1 - v.step.val = (v.lastStep.val + 1 - (v.step.val + 1)) + 1 by omega, Nat.succ_mul, Nat.add_comm]

theorem onCourse_schedule {u : Voice} (h : OnCourse cfg u v mix d) (ht : v.task = none) (hk : v.playable = some k) :
    OnCourse cfg u (v.schedule cfg.lit k) mix d where
  in_range := voiceOk_schedule h.in_range k
  mix_length := h.mix_length
  noJumps_iff := (noJumps_schedule_iff cfg.lit hk).trans h.noJumps_iff
  stop_eq := by
    rw [noJumps_schedule_iff cfg.lit hk, schedule_cursor]
    intro hn
    rw [samplesLeft_schedule hn ht hk, h.stop_eq hn]

theorem onCourse_popped {u : Voice} {t : RenderTask} (h : OnCourse cfg u v mix d) (ht : v.task = some t)
    (hr : v.runTask cfg t mix d = (true, v', mix', d')) : OnCourse cfg u v' mix' d' := by
  obtain ⟨hv', -, hl'⟩ := voiceOk_runTask h.in_range h.mix_length ht hr
  obtain ⟨ht', hcursor, -, -⟩ := runTask_popped h.mix_length hr
  obtain ⟨-, hv'_eq, -, -⟩ := runTask_true hr
  have hjumps := noJumps_runTask_iff hr
  refine ⟨hv', hl', hjumps.trans h.noJumps_iff, fun hn => ?_⟩
  have hleft : v'.samplesLeft cfg = (v.lastStep.val + 1 - v.step.val) * taskSamples cfg v.instr.speed := by
    rw [samplesLeft_of_no_task ht', hv'_eq]
  have hstop := h.stop_eq (hjumps.mp hn)
  rw [samplesLeft_of_task ht] at hstop
  rw [hleft, hcursor, (h.in_range.task_ok t ht).same_speed]
  omega

/-- An update in which the voice died found it exhausted where its samples ran out. -/
theorem updateVoice_died_endsAt (hv : v.Ok cfg) (hl : mix.length = cfg.B) (h : updateVoice cfg v mix d = .died v' mix' d') :
    v.EndsAt cfg v'.cursor ∧ v'.alive = false := by
  have hend := updateLoop_ends cfg (OnCourse cfg v)
    (fun _ _ _ _ hP _ ht hk => onCourse_schedule hP ht hk) (fun _ _ _ _ _ _ _ hP _ ht hr => onCourse_popped hP ht hr)
    (updateFuel cfg) v mix d (onCourse_self hv hl) hv.cursor_lt
  rw [← updateVoice_eq_updateLoop (by simp [h]), h] at hend
  obtain ⟨v0, hP, hc, ht, hk, rfl⟩ := hend
  have hn0 : v0.NoJumps := noJumps_of_exhausted hk
  have hleft : v0.samplesLeft cfg = 0 := by
    have hlast := playable_eq_none.mp hk
    rw [samplesLeft_of_no_task ht, show v0.lastStep.val + 1 - v0.step.val = 0 by omega, Nat.zero_mul]
  have hstop := hP.stop_eq hn0
  exact ⟨⟨hP.noJumps_iff.mp hn0, by rw [die_cursor]; omega, hc⟩, rfl⟩

/-- An update that leaves the voice alive wraps its cursor, leaves its task queued, and does not change whether it takes loop
jumps; one that takes none had the samples to reach the buffer end, and has spent them. -/
theorem updateVoice_alive_spends (hv : v.Ok cfg) (hl : mix.length = cfg.B) (h : updateVoice cfg v mix d = .alive v' mix' d') :
    v'.cursor = 0 ∧ v'.task ≠ none ∧ (v'.NoJumps ↔ v.NoJumps) ∧
      (v.NoJumps → cfg.B ≤ v.cursor + v.samplesLeft cfg ∧ v'.samplesLeft cfg = v.samplesLeft cfg - (cfg.B - v.cursor)) := by
  obtain ⟨v0, mix0, d0, t, hP, ht, hr⟩ := updateVoice_alive (P := OnCourse cfg v)
    (fun _ _ _ _ hP _ ht hk => onCourse_schedule hP ht hk) (fun _ _ _ _ _ _ _ hP _ ht hr => onCourse_popped hP ht hr)
    (onCourse_self hv hl) hv.cursor_lt h
  obtain ⟨hcursor, ht', hlacks, -⟩ := runTask_queued hP.mix_length hP.in_range.cursor_lt hr
  obtain ⟨-, hv'_eq, -, -⟩ := runTask_false hr
  refine ⟨hcursor, by simp [ht'], (noJumps_runTask_iff hr).trans hP.noJumps_iff, fun hn => ?_⟩
  have hleft : v'.samplesLeft cfg = (taskSamples cfg v0.instr.speed - (t.n + (cfg.B - v0.cursor))) +
      (v0.lastStep.val + 1 - v0.step.val) * taskSamples cfg v0.instr.speed := by
    rw [samplesLeft_of_task ht', hv'_eq]
  have hstop := hP.stop_eq (hP.noJumps_iff.mpr hn)
  rw [samplesLeft_of_task ht] at hstop
  rw [(hP.in_range.task_ok t ht).same_speed] at hlacks
  have hc := hv.cursor_lt
  have hc0 := hP.in_range.cursor_lt
  rw [hleft]
  omega

/-- The two ends of the update of a voice that does not meet Z. -/
theorem updateVoice_cases (hcfg : CfgValid cfg) (hv : v.Ok cfg) (hz : ¬ v.Z) (hl : mix.length = cfg.B) :
    (∃ v' mix' d', updateVoice cfg v mix d = .died v' mix' d') ∨
      ∃ v' mix' d', updateVoice cfg v mix d = .alive v' mix' d' := by
  have hne := updateVoice_ne_endless (d := d) hcfg hv hz hl
  rcases h : updateVoice cfg v mix d with ⟨v', mix', d'⟩ | ⟨v', mix', d'⟩ | _
  · exact .inr ⟨v', mix', d', rfl⟩
  · exact .inl ⟨v', mix', d', rfl⟩
  · exact absurd h hne

/-- A voice whose samples run out before the buffer end dies. -/
theorem updateVoice_dies (hcfg : CfgValid cfg) (hv : v.Ok cfg) (hl : mix.length = cfg.B) (hn : v.NoJumps)
    (hlt : v.cursor + v.samplesLeft cfg < cfg.B) : ∃ v' mix' d', updateVoice cfg v mix d = .died v' mix' d' := by
  obtain hdied | ⟨v', mix', d', h⟩ := updateVoice_cases (d := d) hcfg hv (not_Z_of_noJumps hn) hl
  · exact hdied
  · obtain ⟨-, -, -, hspent⟩ := updateVoice_alive_spends hv hl h
    have := (hspent hn).1
    omega

/-- A voice whose samples reach the buffer end lives on. -/
theorem updateVoice_lives (hcfg : CfgValid cfg) (hv : v.Ok cfg) (hl : mix.length = cfg.B) (hn : v.NoJumps)
    (hle : cfg.B ≤ v.cursor + v.samplesLeft cfg) : ∃ v' mix' d', updateVoice cfg v mix d = .alive v' mix' d' := by
  obtain ⟨v', mix', d', h⟩ | halive := updateVoice_cases (d := d) hcfg hv (not_Z_of_noJumps hn) hl
  · obtain ⟨⟨-, hcursor, hlt⟩, -⟩ := updateVoice_died_endsAt hv hl h
    omega
  · exact halive

/-! ## Lifetime (R224) -/

/-- A voice at cursor 0 without loop jumps outlives the updates whose buffers its samples fill. -/
theorem afterUpdates_isSome_iff (hcfg : CfgValid cfg) (j : Nat) (hv : v.Ok cfg) (hn : v.NoJumps) (hc : v.cursor = 0) :
    (v.afterUpdates cfg j d).isSome = true ↔ j * cfg.B ≤ v.samplesLeft cfg := by
  induction j generalizing v d with
  | zero => simp [Voice.afterUpdates]
  | succ j ih =>
    have hl : (List.replicate cfg.B (Exact.rat 0)).length = cfg.B := List.length_replicate
    rw [Voice.afterUpdates, Nat.succ_mul]
    by_cases hlt : v.samplesLeft cfg < cfg.B
    · obtain ⟨v', mix', d', h⟩ := updateVoice_dies (d := d) hcfg hv hl hn (by omega)
      simp only [h, Option.isSome_none, Bool.false_eq_true, false_iff]
      omega
    · obtain ⟨v', mix', d', h⟩ := updateVoice_lives (d := d) hcfg hv hl hn (by omega)
      obtain ⟨hc', -, hjumps, hspent⟩ := updateVoice_alive_spends hv hl h
      obtain ⟨-, hleft⟩ := hspent hn
      simp only [h]
      rw [ih (updateVoice_alive_ok hv hl h).1 (hjumps.mpr hn) hc', hleft]
      omega

end Lifetimes

/-- Settles O24: Z(v) is kept by every pass, and an update without it ends within the passes counted. -/
theorem updateEndsExactly : Obligations.UpdateEndsExactly := by
  intro cfg v mix draws hcfg hv hl
  have hends : ¬ v.Z → updateLoop cfg (updateFuel cfg) v mix draws ≠ .endless := fun hz =>
    updateLoop_ne_endless (CfgValid.rate_pos hcfg) hv hz hl (passesLeft_le_updateFuel cfg v)
  refine ⟨⟨fun h => ?_, updateLoop_endless_of_Z hv hl⟩, fun hz => ⟨hends hz, fun _ => updateLoop_eq_of_le (hends hz)⟩⟩
  by_contra hz
  exact hends hz (h _)

/-- Settles O26: no pass changes the index at which the samples of a voice without jumps run out. -/
theorem updateSpendsSamples : Obligations.UpdateSpendsSamples := by
  intro cfg v mix draws hcfg hv hl hn
  refine ⟨fun hlt => ?_, fun hle => ?_⟩
  · obtain ⟨v', mix', d', h⟩ := updateVoice_dies (d := draws) hcfg hv hl hn hlt
    obtain ⟨⟨-, hcursor, -⟩, hdead⟩ := updateVoice_died_endsAt hv hl h
    exact ⟨v', mix', d', h, hdead, hcursor⟩
  · obtain ⟨v', mix', d', h⟩ := updateVoice_lives (d := draws) hcfg hv hl hn hle
    obtain ⟨hcursor, -, -, hspent⟩ := updateVoice_alive_spends hv hl h
    exact ⟨v', mix', d', h, (updateVoice_alive_ok hv hl h).1.is_alive, hcursor, (hspent hn).2⟩

/-- Settles O27: each update a voice outlives spends B of its k·N samples. -/
theorem lifetime : Obligations.Lifetime := by
  intro cfg v j draws hcfg hv hn ht hc _
  rw [afterUpdates_isSome_iff hcfg j hv hn hc, samplesLeft_of_no_task ht, Nat.le_div_iff_mul_le (Nat.zero_lt_of_lt hv.cursor_lt)]

end Sys2Proof.Machine
end

section
/-! SUPPORT. A PULL from a running block (43_step_sequencer.md R219–R223; 44_pattern_sequencer.md R246–R255; 45_voice_mixer.md
R290–R293): what it leaves of the voices, and that it completes when no voice meets Z and every instrument takes time. -/

namespace Sys2Proof.Machine

/-! ## The identity of a voice (10_state.md R39, R40, R42, R44, R45) -/

/-- Two voices of one instrument, last step and flags. -/
structure Voice.SameIdentity (v w : Voice) : Prop where
  instrIdx_eq : v.instrIdx = w.instrIdx
  instr_eq : v.instr = w.instr
  lastStep_eq : v.lastStep = w.lastStep
  alive_eq : v.alive = w.alive
  active_eq : v.active = w.active
  loop_eq : v.loop = w.loop

theorem Voice.SameIdentity.refl (v : Voice) : v.SameIdentity v := ⟨rfl, rfl, rfl, rfl, rfl, rfl⟩

theorem Voice.SameIdentity.trans {u v w : Voice} (h : u.SameIdentity v) (h' : v.SameIdentity w) : u.SameIdentity w :=
  ⟨h.instrIdx_eq.trans h'.instrIdx_eq, h.instr_eq.trans h'.instr_eq, h.lastStep_eq.trans h'.lastStep_eq,
    h.alive_eq.trans h'.alive_eq, h.active_eq.trans h'.active_eq, h.loop_eq.trans h'.loop_eq⟩

theorem schedule_sameIdentity (lit : Literals) (v : Voice) (k : Fin 32) : (v.schedule lit k).SameIdentity v where
  instrIdx_eq := schedule_instrIdx lit v k
  instr_eq := schedule_instr lit v k
  lastStep_eq := schedule_lastStep lit v k
  alive_eq := schedule_alive lit v k
  active_eq := schedule_active lit v k
  loop_eq := schedule_loop lit v k

section OneVoice
variable {cfg : Cfg} {v v' : Voice} {mix mix' : List Exact} {d d' : Nat}

theorem runTask_sameIdentity {b : Bool} {t : RenderTask} (h : v.runTask cfg t mix d = (b, v', mix', d')) : v'.SameIdentity v := by
  cases b with
  | true =>
    obtain ⟨-, rfl, -, -⟩ := runTask_true h
    exact ⟨rfl, rfl, rfl, rfl, rfl, rfl⟩
  | false =>
    obtain ⟨-, rfl, -, -⟩ := runTask_false h
    exact ⟨rfl, rfl, rfl, rfl, rfl, rfl⟩

/-- A voice that lives on keeps its identity. -/
theorem updateVoice_sameIdentity (h : updateVoice cfg v mix d = .alive v' mix' d') : v'.SameIdentity v := by
  by_cases hc : v.cursor < cfg.B
  · obtain ⟨v0, _, _, _, hP, -, hr⟩ := updateVoice_alive (P := fun w _ _ => w.SameIdentity v)
      (fun w _ _ k hP _ _ _ => (schedule_sameIdentity cfg.lit w k).trans hP)
      (fun _ _ _ _ _ _ _ hP _ _ hr => (runTask_sameIdentity hr).trans hP) (.refl v) hc h
    exact (runTask_sameIdentity hr).trans hP
  · rw [updateVoice_alive_of_full hc h]
    exact .refl v

/-- A voice that lives on meets Z only if it met it before. -/
theorem updateVoice_alive_Z (hv : v.Ok cfg) (hl : mix.length = cfg.B) (h : updateVoice cfg v mix d = .alive v' mix' d') :
    v'.Z ↔ v.Z := by
  obtain ⟨-, -, hjumps, -⟩ := updateVoice_alive_spends hv hl h
  rw [Z_iff, Z_iff, hjumps, (updateVoice_sameIdentity h).instr_eq]

end OneVoice

/-! ## The slots after an update -/

/-- Where a voice stands after an update: at cursor 0, with its task queued (R220, R222). -/
def Voice.Parked (v : Voice) : Prop := v.cursor = 0 ∧ v.task ≠ none

section Slots
variable {s t : State} {slot slot' : SlotId} {v' : Voice}

/-- The update of a slot leaves the voices of the others. -/
theorem voice_updateSlot_other (h : s.updateSlot slot = .ok t) (hne : slot' ≠ slot) : t.voice slot' = s.voice slot' := by
  obtain ⟨-, -, -, -, -, -, -, -, -, -, hother⟩ := updateSlot_frame h
  exact hother slot' hne

/-- The voice in a slot after the update of some slot: the voice that lived on there, or in another slot the voice before. -/
theorem voice_updateSlot (h : s.updateSlot slot = .ok t) (hv' : t.voice slot' = some v') :
    (slot' = slot ∧ ∃ v mix d, s.voice slot = some v ∧ updateVoice s.cfg v s.mix s.draws = .alive v' mix d) ∨
    (slot' ≠ slot ∧ s.voice slot' = some v') := by
  by_cases he : slot' = slot
  · subst he
    obtain ⟨hv, rfl⟩ | ⟨v, w, mix, d, hv, hu, rfl⟩ | ⟨v, w, mix, d, hv, hu, rfl⟩ := updateSlot_ok h
    · cases hv.symm.trans hv'
    · rw [voice_setVoice_same] at hv'
      cases hv'
      exact .inl ⟨rfl, v, mix, d, hv, hu⟩
    · rw [voice_setVoice_same] at hv'
      cases hv'
  · exact .inr ⟨he, voice_updateSlot_other h he ▸ hv'⟩

theorem updateSlots_cons_ok {rest : List SlotId} :
    s.updateSlots (slot :: rest) = .ok t ↔ ∃ u, s.updateSlot slot = .ok u ∧ u.updateSlots rest = .ok t := by
  rw [State.updateSlots]
  rcases s.updateSlot slot with r | u <;> simp

/-- A slot's update parks its voice. -/
theorem updateSlot_parks (hs : s.Running) (h : s.updateSlot slot = .ok t) (hv' : t.voice slot = some v') : v'.Parked := by
  obtain ⟨-, v, mix, d, hv, hu⟩ | ⟨hne, -⟩ := voice_updateSlot h hv'
  · obtain ⟨hc, ht, -⟩ := updateVoice_alive_spends (hs.voices_ok slot v hv) hs.mix_length hu
    exact ⟨hc, ht⟩
  · exact absurd rfl hne

/-- The updates of a list of slots park the voices of its slots. -/
theorem updateSlots_parks {slots : List SlotId} (hs : s.Running) (h : s.updateSlots slots = .ok t) (hm : slot ∈ slots) :
    ∀ v', t.voice slot = some v' → v'.Parked := by
  induction slots generalizing s with
  | nil => cases hm
  | cons head rest ih =>
    obtain ⟨u, hu, hrest⟩ := updateSlots_cons_ok.mp h
    obtain rfl | hm := List.mem_cons.mp hm
    · have hkeeps := updateSlots_keeps (fun w => w.Running ∧ ∀ v', w.voice slot = some v' → v'.Parked) rest
        (fun w w' other _ hP hw => ⟨hP.1.updateSlot hw, fun v' hv' => ?_⟩)
        ⟨hs.updateSlot hu, fun _ => updateSlot_parks hs hu⟩ hrest
      · exact hkeeps.2
      · by_cases he : slot = other
        · subst he
          exact updateSlot_parks hP.1 hw hv'
        · obtain ⟨he', -⟩ | ⟨-, hv⟩ := voice_updateSlot hw hv'
          · exact absurd he' he
          · exact hP.2 v' hv
    · exact ih (hs.updateSlot hu) hrest hm

/-- The song tick parks the music voices it leaves. -/
theorem songTick_parks {fuel : Nat} {seen : List (Fin 64 × Nat)} (hs : s.Running) (h : songTick fuel seen s = .ok t) (k : Fin 4) :
    ∀ v', t.mus[k] = some v' → v'.Parked := by
  induction fuel generalizing seen s with
  | zero => cases h
  | succ fuel ih =>
    obtain ⟨hm, rfl⟩ | ⟨hm, u, hu, hcase⟩ := songTick_ok h
    · intro v' hv'
      rw [hs.song_ok.stopped_silent hm k] at hv'
      cases hv'
    · obtain ⟨hur, hum⟩ := hs.updateSlots hu
      obtain rfl | ⟨c, -, rfl | ⟨p, hagain⟩⟩ := hcase
      · exact updateSlots_parks (slot := .mus k) hs hu (by fin_cases k <;> simp [musSlots])
      · intro v' hv'
        simp at hv'
      · exact ih (hur.moveTo (hum.trans hm) p) hagain

/-- The song tick leaves the one-shot voices. -/
theorem songTick_sfx {fuel : Nat} {seen : List (Fin 64 × Nat)} (h : songTick fuel seen s = .ok t) (k : Fin 4) :
    t.sfx[k] = s.sfx[k] := by
  refine songTick_keeps (fun u => u.sfx[k] = s.sfx[k]) (fun u u' slot hm hP hu => ?_) (fun _ _ hP _ => hP)
    (fun _ _ _ hP _ _ => hP) rfl h
  have hne : SlotId.sfx k ≠ slot := by
    rintro rfl
    simp [musSlots] at hm
  exact (voice_updateSlot_other hu hne).trans hP

/-- The rendering of a PULL is the update of the one-shot slots and then the song tick. -/
theorem renderVoices_ok :
    s.renderVoices = .ok t ↔ ∃ u, s.updateSlots sfxSlots = .ok u ∧ songTick (songFuel u.cfg) [] u = .ok t := by
  unfold State.renderVoices
  rcases s.updateSlots sfxSlots with r | u <;> simp

/-- The rendering of a PULL parks every voice it leaves. -/
theorem renderVoices_parks (hs : s.Running) (h : s.renderVoices = .ok t) : t.AllVoices Voice.Parked := by
  obtain ⟨u, hu, htick⟩ := renderVoices_ok.mp h
  refine allVoices_iff.mpr ⟨fun k v' hv' => ?_, fun k => songTick_parks (hs.updateSlots hu).1 htick k⟩
  rw [songTick_sfx htick k] at hv'
  exact updateSlots_parks (slot := .sfx k) hs hu (by fin_cases k <;> simp [sfxSlots]) v' hv'

/-- A one-shot voice left by the rendering of a PULL was in its slot before, with the same identity. -/
theorem renderVoices_sameIdentity (h : s.renderVoices = .ok t) (k : Fin 4) :
    ∀ v', t.sfx[k] = some v' → ∃ v, s.sfx[k] = some v ∧ v'.SameIdentity v := by
  refine renderVoices_keeps (fun u => ∀ v', u.sfx[k] = some v' → ∃ v, s.sfx[k] = some v ∧ v'.SameIdentity v)
    (fun u u' slot hP hu v' hv' => ?_) (fun _ _ hP _ => hP) (fun _ _ _ hP _ _ => hP) (fun v' hv' => ⟨v', hv', .refl v'⟩) h
  obtain ⟨rfl, w, _, _, hw, hup⟩ | ⟨-, hv⟩ := voice_updateSlot (slot' := .sfx k) hu hv'
  · obtain ⟨v, hv, hsame⟩ := hP w hw
    exact ⟨v, hv, (updateVoice_sameIdentity hup).trans hsame⟩
  · exact hP v' hv

end Slots

/-- Settles O23: a PULL that leaves the block not stuck has rendered, and each update parks its voice. -/
theorem pullKeepsVoices : Obligations.PullKeepsVoices := by
  intro x s t hs h _ hstuck
  obtain ⟨u, hu, he⟩ | ⟨r, -, he⟩ := execPull_cases x s
  · cases he.symm.trans h
    have hparked : u.AllVoices Voice.Parked := renderVoices_parks hs.zeroMix hu
    refine ⟨hparked, fun k v' hv' => ?_⟩
    obtain ⟨v, hv, hsame⟩ := renderVoices_sameIdentity hu k v' hv'
    exact ⟨v, hv, hsame.instrIdx_eq, hsame.instr_eq, hsame.lastStep_eq, hsame.alive_eq, hsame.active_eq, hsame.loop_eq⟩
  · cases he.symm.trans h
    cases hstuck

/-! ## Completion (R223, R255) -/

section Completes
variable {s t : State}

/-- In a running block in which no voice meets Z the updates of a list of slots end, and leave no voice that meets it. -/
theorem updateSlots_of_no_Z (hs : s.Running) (hz : s.AllVoices fun v => ¬ v.Z) (slots : List SlotId) :
    ∃ u, s.updateSlots slots = .ok u ∧ u.AllVoices fun v => ¬ v.Z := by
  have hstep : ∀ (u u' : State) (slot : SlotId), slot ∈ slots → (u.Running ∧ u.AllVoices fun v => ¬ v.Z) →
      u.updateSlot slot = .ok u' → u'.Running ∧ u'.AllVoices fun v => ¬ v.Z := by
    rintro u u' slot - ⟨hur, huz⟩ hu
    refine ⟨hur.updateSlot hu, fun slot' v' hv' => ?_⟩
    obtain ⟨-, v, _, _, hv, hup⟩ | ⟨-, hv⟩ := voice_updateSlot hu hv'
    · rw [updateVoice_alive_Z (hur.voices_ok slot v hv) hur.mix_length hup]
      exact huz slot v hv
    · exact huz slot' v' hv
  rcases hu : s.updateSlots slots with r | u
  · obtain ⟨slot, u, v, -, ⟨hur, huz⟩, -, hv, hend⟩ := updateSlots_error _ slots hstep ⟨hs, hz⟩ hu
    exact absurd hend (updateVoice_ne_endless hur.cfg_valid (hur.voices_ok slot v hv) (huz slot v hv) hur.mix_length)
  · exact ⟨u, rfl, (updateSlots_keeps _ slots hstep ⟨hs, hz⟩ hu).2⟩

/-- A reference that is dead after the updates of different slots was dead before, or died where the samples of its voice end. -/
theorem updateSlots_dead_ref {lo : Nat} {slots : List SlotId} (hnodup : slots.Nodup) (hs : s.Running)
    (hends : ∀ slot ∈ slots, ∀ v c, s.voice slot = some v → v.EndsAt s.cfg c → lo ≤ c)
    (hdead : ∀ c, s.song.ref = .dead c → lo ≤ c) (h : s.updateSlots slots = .ok t) :
    ∀ c, t.song.ref = .dead c → lo ≤ c := by
  induction slots generalizing s with
  | nil =>
    cases h
    exact hdead
  | cons slot rest ih =>
    obtain ⟨u, hu, hrest⟩ := updateSlots_cons_ok.mp h
    obtain ⟨hnew, hnodup⟩ := List.nodup_cons.mp hnodup
    obtain ⟨hcfg, -⟩ := updateSlot_frame hu
    refine ih hnodup (hs.updateSlot hu) (fun slot' hm v c hv => ?_) (fun c hc => ?_) hrest
    · rw [voice_updateSlot_other hu fun he => hnew (he ▸ hm)] at hv
      rw [hcfg]
      exact hends slot' (List.mem_cons_of_mem _ hm) v c hv
    · obtain ⟨-, rfl⟩ | ⟨v, v', mix, d, -, -, rfl⟩ | ⟨v, v', mix, d, hv, hup, rfl⟩ := updateSlot_ok hu
      · exact hdead c hc
      · exact hdead c (by simpa using hc)
      · obtain hc | rfl := refAfterDeath_eq_dead (by simpa using hc)
        · exact hdead c hc
        · exact hends slot List.mem_cons_self v _ hv (updateVoice_died_endsAt (hs.voices_ok slot v hv) hs.mix_length hup).1

/-- The samples of a fresh voice of speed at least 1 end past its cursor: it plays one step at least. -/
theorem cursor_lt_of_endsAt_startVoice {n : Fin 64} {len : Int} {c stop : Nat} (hr : 1 ≤ s.cfg.rate)
    (hspeed : 1 ≤ (s.decodeInstrument n).speed.val) (h : (s.startVoice n 0 len c).EndsAt s.cfg stop) : c < stop := by
  obtain ⟨-, hstop, -⟩ := h
  have hfirst : (s.startVoice n 0 len c).step.val = 0 := Int.ofNat_inj.mp (firstStep_val 0)
  have hsteps : 1 ≤ (s.startVoice n 0 len c).lastStep.val + 1 - (s.startVoice n 0 len c).step.val := by omega
  have hsamples : 1 ≤ taskSamples s.cfg (s.startVoice n 0 len c).instr.speed := taskSamples_pos s.cfg _ hspeed hr
  have hleft := Nat.mul_pos hsteps hsamples
  rw [samplesLeft_of_no_task rfl, show (s.startVoice n 0 len c).cursor = c from rfl] at hstop
  omega

/-- A state of a song tick that will end: no voice meets Z, every instrument of the tables takes time, and neither the music
voices nor the reference end before buffer index `lo`. -/
structure State.CanTick (s : State) (lo : Nat) : Prop where
  running : s.Running
  no_Z : s.AllVoices fun v => ¬ v.Z
  speeds : ∀ n : Fin 64, 1 ≤ (s.decodeInstrument n).speed.val
  ends_from : ∀ (k : Fin 4) v c, s.mus[k] = some v → v.EndsAt s.cfg c → lo ≤ c
  dead_from : ∀ c, s.song.ref = .dead c → lo ≤ c

/-- After a transition at index `c` nothing ends before `c + 1` (R255: the cursors of a chain rise). -/
theorem canTick_moveTo {c : Nat} (hs : s.Running) (hm : s.song.mode = .playing) (hz : s.AllVoices fun v => ¬ v.Z)
    (hspeeds : ∀ n : Fin 64, 1 ≤ (s.decodeInstrument n).speed.val) (hc : s.song.ref = .dead c) (p : Fin 64) :
    (s.moveTo p).CanTick (c + 1) where
  running := hs.moveTo hm p
  no_Z := by
    have hpat : ({ s with song := { s.song with pat := p } } : State).AllVoices fun v => ¬ v.Z := hz
    exact allVoices_setUpPattern hpat p fun n => not_Z_of_speed_pos (hspeeds n)
  speeds := hspeeds
  ends_from := fun k v stop hv hend => by
    obtain ⟨n, rfl⟩ := mus_setUpPattern (s := { s with song := { s.song with pat := p } }) hv
    have hcursor : ({ s with song := { s.song with pat := p } } : State).carriedCursor = c := by
      simp only [State.carriedCursor, hc]
    rw [hcursor] at hend
    exact cursor_lt_of_endsAt_startVoice (CfgValid.rate_pos hs.cfg_valid) (hspeeds n) hend
  dead_from := fun c' hc' => by
    rw [moveTo_song] at hc'
    obtain ⟨-, href⟩ | ⟨k, -, href, -⟩ := isReference_selectRef (s.moveTo p).mus
    · cases href.symm.trans hc'
    · cases href.symm.trans hc'

/-- A round of the song tick ends when the updates of the music slots do, and the tick of the pattern moved to, if any. -/
theorem songTick_round {fuel : Nat} {seen : List (Fin 64 × Nat)} {u : State} (hu : s.updateSlots musSlots = .ok u)
    (hmove : ∀ c p, u.song.ref = .dead c → (p, c) ∉ seen ∧ ∃ t, songTick fuel ((p, c) :: seen) (u.moveTo p) = .ok t) :
    ∃ t, songTick (fuel + 1) seen s = .ok t := by
  unfold songTick
  rcases s.song.mode with _ | _
  · exact ⟨s, rfl⟩
  · simp only [hu]
    rcases hr : u.song.ref with _ | k | c
    · exact ⟨u, rfl⟩
    · exact ⟨u, rfl⟩
    · rcases u.nextPattern with _ | p
      · exact ⟨_, rfl⟩
      · obtain ⟨hnew, htick⟩ := hmove c p hr
        simpa only [if_neg hnew] using htick

/-- The song tick ends: each transition happens past the one before, so no pair repeats and the buffer bounds their number. -/
theorem songTick_completes {fuel lo : Nat} {seen : List (Fin 64 × Nat)} (hs : s.CanTick lo) (hseen : ∀ q ∈ seen, q.2 < lo)
    (hfuel : s.cfg.B < fuel + lo) (hlo : lo ≤ s.cfg.B) : ∃ t, songTick fuel seen s = .ok t := by
  induction fuel generalizing seen s lo with
  | zero => omega
  | succ fuel ih =>
    rcases hm : s.song.mode with _ | _
    · exact ⟨s, songTick_stopped hm⟩
    obtain ⟨u, hu, huz⟩ := updateSlots_of_no_Z hs.running hs.no_Z musSlots
    obtain ⟨hur, hum⟩ := hs.running.updateSlots hu
    obtain ⟨hcfg, htables⟩ := updateSlots_tables hu
    have hspeeds : ∀ n : Fin 64, 1 ≤ (u.decodeInstrument n).speed.val := fun n => by
      rw [decodeInstrument_congr hcfg htables]
      exact hs.speeds n
    have hends : ∀ slot ∈ musSlots, ∀ v c, s.voice slot = some v → v.EndsAt s.cfg c → lo ≤ c := by
      rintro (k | k) hslot v c hv
      · simp [musSlots] at hslot
      · exact hs.ends_from k v c hv
    refine songTick_round hu fun c p hc => ?_
    have hle : lo ≤ c := updateSlots_dead_ref (by decide) hs.running hends hs.dead_from hu c hc
    have hlt : c < s.cfg.B := hcfg ▸ hur.song_ok.dead_ref c hc
    refine ⟨fun hin => ?_, ih (canTick_moveTo hur (hum.trans hm) huz hspeeds hc p) (fun q hq => ?_) ?_ ?_⟩
    · have := hseen _ hin
      omega
    · obtain rfl | hq := List.mem_cons.mp hq
      · exact Nat.lt_succ_self c
      · have := hseen q hq
        omega
    · rw [moveTo_cfg, hcfg]
      omega
    · rw [moveTo_cfg, hcfg]
      omega

/-- The rendering of a PULL ends when no voice meets Z and every instrument of the tables takes time. -/
theorem renderVoices_completes (hs : s.Running) (hz : s.AllVoices fun v => ¬ v.Z)
    (hspeeds : ∀ n : Fin 64, 1 ≤ (s.decodeInstrument n).speed.val) : ∃ t, s.renderVoices = .ok t := by
  obtain ⟨u, hu, huz⟩ := updateSlots_of_no_Z hs hz sfxSlots
  obtain ⟨hcfg, htables⟩ := updateSlots_tables hu
  have htick : u.CanTick 0 :=
    { running := (hs.updateSlots hu).1
      no_Z := huz
      speeds := fun n => by
        rw [decodeInstrument_congr hcfg htables]
        exact hspeeds n
      ends_from := fun _ _ _ _ _ => Nat.zero_le _
      dead_from := fun _ _ => Nat.zero_le _ }
  obtain ⟨t, ht⟩ := songTick_completes (fuel := songFuel u.cfg) (seen := []) htick (fun _ hq => nomatch hq)
    (by unfold songFuel; omega) (Nat.zero_le _)
  exact ⟨t, renderVoices_ok.mpr ⟨u, hu, ht⟩⟩

/-- The rendering of a PULL leaves the configuration and the stuck reason. -/
theorem renderVoices_cfg_stuck (h : s.renderVoices = .ok t) : t.cfg = s.cfg ∧ t.stuck = s.stuck := by
  refine renderVoices_keeps (fun u => u.cfg = s.cfg ∧ u.stuck = s.stuck) ?_ (fun _ _ hP _ => hP) (fun _ _ _ hP _ _ => hP)
    ⟨rfl, rfl⟩ h
  rintro u u' slot ⟨hc, hst⟩ hu
  obtain ⟨hc', -, -, hst', -⟩ := updateSlot_frame hu
  exact ⟨hc'.trans hc, hst'.trans hst⟩

end Completes

/-- Settles O20: the updates end for no voice meets Z, and the song tick since the cursors of its transitions rise. -/
theorem pullCompletes : Obligations.PullCompletes := by
  intro x s hs hz hspeeds
  obtain ⟨t, ht⟩ := renderVoices_completes hs.zeroMix hz hspeeds
  obtain ⟨u, hu, he⟩ | ⟨r, hr, -⟩ := execPull_cases x s
  · obtain ⟨hcfg, hstuck⟩ := renderVoices_cfg_stuck hu
    refine ⟨u.publish, he, hstuck, rfl, ?_⟩
    rw [publish_out, List.length_map, (hs.zeroMix.renderVoices hu).mix_length, hcfg, zeroMix_cfg]
  · cases ht.symm.trans hr

end Sys2Proof.Machine
end

section
/-! SUPPORT. Sound never decides control (44_pattern_sequencer.md R255; 00_scope.md R18): each operation of the machine, run on two
voices, slots or states that differ at most in sound, gives results of the same kind that differ at most in sound. -/

namespace Sys2Proof.Machine

/-! ## One voice -/

theorem sameControl_iff {v w : Voice} : v.SameControl w ↔ ∃ o, w = { v with osc := o } :=
  ⟨fun h => ⟨w.osc, h.symm⟩, fun ⟨_, h⟩ => h ▸ rfl⟩

theorem Voice.SameControl.refl (v : Voice) : v.SameControl v := rfl

section Fields
variable {v w : Voice} (h : v.SameControl w)
include h

theorem Voice.SameControl.slot : SameSlot (some v) (some w) := h

theorem Voice.SameControl.cursor_eq : v.cursor = w.cursor := by
  obtain ⟨o, rfl⟩ := sameControl_iff.mp h
  rfl

theorem Voice.SameControl.task_eq : v.task = w.task := by
  obtain ⟨o, rfl⟩ := sameControl_iff.mp h
  rfl

theorem Voice.SameControl.playable_eq : v.playable = w.playable := by
  obtain ⟨o, rfl⟩ := sameControl_iff.mp h
  rfl

theorem Voice.SameControl.endlessLoop_eq : v.endlessLoop = w.endlessLoop := by
  obtain ⟨o, rfl⟩ := sameControl_iff.mp h
  rfl

theorem Voice.SameControl.instrIdx_eq : v.instrIdx = w.instrIdx := by
  obtain ⟨o, rfl⟩ := sameControl_iff.mp h
  rfl

theorem Voice.SameControl.die : v.die.SameControl w.die := by
  obtain ⟨o, rfl⟩ := sameControl_iff.mp h
  rfl

theorem Voice.SameControl.release : v.release.SameControl w.release := by
  obtain ⟨o, rfl⟩ := sameControl_iff.mp h
  rfl

/-- Scheduling does not read the oscillator (43_step_sequencer.md R203). -/
theorem scheduleNote_sameControl (lit : Literals) (k : Fin 32) (p : PackedNote) :
    (v.scheduleNote lit k p).SameControl (w.scheduleNote lit k p) := by
  obtain ⟨o, rfl⟩ := sameControl_iff.mp h
  unfold Voice.scheduleNote
  cases p.effect <;> rfl

theorem schedule_sameControl (lit : Literals) (k : Fin 32) : (v.schedule lit k).SameControl (w.schedule lit k) := by
  have hs := scheduleNote_sameControl h lit k v.instr.notes[k]
  obtain ⟨o, rfl⟩ := sameControl_iff.mp h
  exact hs

end Fields

section Update
variable {cfg : Cfg} {v w v' : Voice} {mix mix₂ mix' : List Exact} {d d₂ d' : Nat}

/-- A pass with a task consumes samples by the task's count and the buffer's length, and ends at the same end. -/
theorem runTask_sameControl {t : RenderTask} {b : Bool} (h : v.SameControl w) (hl : mix.length = mix₂.length)
    (hr : v.runTask cfg t mix d = (b, v', mix', d')) :
    ∃ w' mix₂' d₂', w.runTask cfg t mix₂ d₂ = (b, w', mix₂', d₂') ∧ v'.SameControl w' ∧ mix'.length = mix₂'.length := by
  obtain ⟨o, rfl⟩ := sameControl_iff.mp h
  have hused : (processTask cfg v.active v.cursor mix₂ t o d₂).used = (processTask cfg v.active v.cursor mix t v.osc d).used := by
    rw [processTask_used, processTask_used, hl]
  cases b with
  | true =>
    obtain ⟨hlt, rfl, rfl, -⟩ := runTask_true hr
    refine ⟨_, _, _, if_pos (hused ▸ hlt), ?_, by simp [hl]⟩
    simp only [Voice.SameControl, hused]
  | false =>
    obtain ⟨hge, rfl, rfl, -⟩ := runTask_false hr
    refine ⟨_, _, _, if_neg (not_lt.mpr (hused ▸ hge)), ?_, by simp [hl]⟩
    simp only [Voice.SameControl, processTask_task, hused]

/-- Two outcomes of an update of the same kind, whose voices and buffers differ at most in sound. -/
inductive UpdateOut.SameControl : UpdateOut → UpdateOut → Prop where
  | alive {v w : Voice} {mix mix₂ : List Exact} {d d₂ : Nat} (hv : v.SameControl w) (hl : mix.length = mix₂.length) :
    UpdateOut.SameControl (.alive v mix d) (.alive w mix₂ d₂)
  | died {v w : Voice} {mix mix₂ : List Exact} {d d₂ : Nat} (hv : v.SameControl w) (hl : mix.length = mix₂.length) :
    UpdateOut.SameControl (.died v mix d) (.died w mix₂ d₂)
  | endless : UpdateOut.SameControl .endless .endless

theorem updateLoop_sameControl (fuel : Nat) (h : v.SameControl w) (hl : mix.length = mix₂.length) :
    (updateLoop cfg fuel v mix d).SameControl (updateLoop cfg fuel w mix₂ d₂) := by
  induction fuel generalizing v w mix mix₂ d d₂ with
  | zero => exact .endless
  | succ fuel ih =>
    have hcursor := h.cursor_eq
    have htask := h.task_eq
    have hplay := h.playable_eq
    by_cases hc : v.cursor < cfg.B
    · rcases ht : v.task with _ | t
      · rcases hk : v.playable with _ | k
        · rw [updateLoop_of_exhausted hc ht hk, updateLoop_of_exhausted (hcursor ▸ hc) (htask ▸ ht) (hplay ▸ hk)]
          exact .died h.die hl
        · rw [updateLoop_of_playable hc ht hk, updateLoop_of_playable (hcursor ▸ hc) (htask ▸ ht) (hplay ▸ hk)]
          exact ih (schedule_sameControl h cfg.lit k) hl
      · rcases hr : v.runTask cfg t mix d with ⟨b, v', mix', d'⟩
        obtain ⟨w', mix₂', d₂', hr₂, hv', hl'⟩ := runTask_sameControl (d₂ := d₂) h hl hr
        cases b with
        | true =>
          rw [updateLoop_of_popped hc ht hr, updateLoop_of_popped (hcursor ▸ hc) (htask ▸ ht) hr₂]
          exact ih hv' hl'
        | false =>
          rw [updateLoop_of_queued hc ht hr, updateLoop_of_queued (hcursor ▸ hc) (htask ▸ ht) hr₂]
          exact .alive hv' hl'
    · rw [updateLoop_of_full hc, updateLoop_of_full (hcursor ▸ hc)]
      exact .alive h hl

/-- An update ends the same way whatever the voice's sound, the buffer's samples and the draws (R219–R223). -/
theorem updateVoice_sameControl (h : v.SameControl w) (hl : mix.length = mix₂.length) :
    (updateVoice cfg v mix d).SameControl (updateVoice cfg w mix₂ d₂) := by
  unfold updateVoice
  rw [h.endlessLoop_eq]
  split
  · exact .endless
  · exact updateLoop_sameControl _ h hl

end Update

/-! ## Slots -/

theorem SameSlot.refl (a : Option Voice) : SameSlot a a := by
  cases a with
  | none => trivial
  | some v => exact Voice.SameControl.refl v

/-- Two slots that differ at most in sound are both empty, or both hold a voice. -/
theorem sameSlot_cases {a b : Option Voice} (h : SameSlot a b) :
    (a = none ∧ b = none) ∨ ∃ v w, a = some v ∧ b = some w ∧ v.SameControl w := by
  rcases a with _ | v <;> rcases b with _ | w
  · exact .inl ⟨rfl, rfl⟩
  · exact h.elim
  · exact h.elim
  · exact .inr ⟨v, w, rfl, rfl, h⟩

theorem sameBench_cases {a b : Option Bench} (h : SameBench a b) :
    (a = none ∧ b = none) ∨ ∃ x y, a = some x ∧ b = some y ∧ x.voice.SameControl y.voice ∧ x.mix.length = y.mix.length := by
  rcases a with _ | x <;> rcases b with _ | y
  · exact .inl ⟨rfl, rfl⟩
  · exact h.elim
  · exact h.elim
  · exact .inr ⟨x, y, rfl, rfl, h⟩

theorem sameBench_some {a b : Bench} (hv : a.voice.SameControl b.voice) (hl : a.mix.length = b.mix.length) :
    SameBench (some a) (some b) := ⟨hv, hl⟩

/-! ## States with parts replaced -/

section Replace
variable {s t : State}

theorem State.SameControl.setVoice (h : s.SameControl t) (slot : SlotId) {a b : Option Voice} (hab : SameSlot a b) :
    (s.setVoice slot a).SameControl (t.setVoice slot b) where
  cfg_eq := by simpa using h.cfg_eq
  mix_length := by simpa using h.mix_length
  slots := fun slot' => by
    rw [voice_setVoice, voice_setVoice]
    split
    · exact hab
    · exact h.slots slot'
  song_eq := by simpa using h.song_eq
  fault_eq := by simpa using h.fault_eq
  stuck_eq := by simpa using h.stuck_eq
  tables_eq := by simpa using h.tables_eq
  stream_eq := by simpa using h.stream_eq
  benches := by simpa using h.benches

/-- The samples in the buffers and the count of draws are sound. -/
theorem State.SameControl.render (h : s.SameControl t) {mix mix₂ : List Exact} (hl : mix.length = mix₂.length) (d d₂ : Nat) :
    ({ s with mix := mix, draws := d } : State).SameControl { t with mix := mix₂, draws := d₂ } :=
  ⟨h.cfg_eq, hl, h.slots, h.song_eq, h.fault_eq, h.stuck_eq, h.tables_eq, h.stream_eq, h.benches⟩

theorem State.SameControl.setBench (h : s.SameControl t) {a b : Option Bench} (hab : SameBench a b) (d d₂ : Nat) :
    ({ s with bench := a, draws := d } : State).SameControl { t with bench := b, draws := d₂ } :=
  ⟨h.cfg_eq, h.mix_length, h.slots, h.song_eq, h.fault_eq, h.stuck_eq, h.tables_eq, h.stream_eq, hab⟩

theorem State.SameControl.setSong (h : s.SameControl t) {song song₂ : SongState} (hsong : song = song₂) :
    ({ s with song := song } : State).SameControl { t with song := song₂ } :=
  ⟨h.cfg_eq, h.mix_length, h.slots, hsong, h.fault_eq, h.stuck_eq, h.tables_eq, h.stream_eq, h.benches⟩

theorem State.SameControl.setSfx (h : s.SameControl t) {a b : Vector (Option Voice) 4} (hab : ∀ k : Fin 4, SameSlot a[k] b[k]) :
    ({ s with sfx := a } : State).SameControl { t with sfx := b } where
  cfg_eq := h.cfg_eq
  mix_length := h.mix_length
  slots := fun slot => by
    cases slot with
    | sfx k => exact hab k
    | mus k => exact h.slots (.mus k)
  song_eq := h.song_eq
  fault_eq := h.fault_eq
  stuck_eq := h.stuck_eq
  tables_eq := h.tables_eq
  stream_eq := h.stream_eq
  benches := h.benches

theorem State.SameControl.setMusic (h : s.SameControl t) {mus mus₂ : Vector (Option Voice) 4} {song song₂ : SongState}
    (hmus : mus = mus₂) (hsong : song = song₂) :
    ({ s with mus := mus, song := song } : State).SameControl { t with mus := mus₂, song := song₂ } where
  cfg_eq := h.cfg_eq
  mix_length := h.mix_length
  slots := fun slot => by
    cases slot with
    | sfx k => exact h.slots (.sfx k)
    | mus k => exact hmus ▸ SameSlot.refl mus[k]
  song_eq := hsong
  fault_eq := h.fault_eq
  stuck_eq := h.stuck_eq
  tables_eq := h.tables_eq
  stream_eq := h.stream_eq
  benches := h.benches

theorem State.SameControl.setCfg (h : s.SameControl t) (c : Cfg) : ({ s with cfg := c } : State).SameControl { t with cfg := c } :=
  ⟨rfl, h.mix_length, h.slots, h.song_eq, h.fault_eq, h.stuck_eq, h.tables_eq, h.stream_eq, h.benches⟩

theorem State.SameControl.setStream (h : s.SameControl t) (stream : List Input) :
    ({ s with stream := stream } : State).SameControl { t with stream := stream } :=
  ⟨h.cfg_eq, h.mix_length, h.slots, h.song_eq, h.fault_eq, h.stuck_eq, h.tables_eq, rfl, h.benches⟩

theorem State.SameControl.writeTable (h : s.SameControl t) (a : Addr) (b : Byte) : (s.writeTable a b).SameControl (t.writeTable a b) :=
  ⟨h.cfg_eq, h.mix_length, h.slots, h.song_eq, h.fault_eq, h.stuck_eq, congrArg (memWrite · a b) h.tables_eq, h.stream_eq, h.benches⟩

theorem State.SameControl.raiseCfgFault (h : s.SameControl t) (f : CfgFault) : (s.raiseCfgFault f).SameControl (t.raiseCfgFault f) :=
  ⟨h.cfg_eq, h.mix_length, h.slots, h.song_eq, rfl, h.stuck_eq, h.tables_eq, h.stream_eq, h.benches⟩

/-- The reset values do not depend on what the state held (70_reset_and_hazards.md R340). -/
theorem State.SameControl.clear (h : s.SameControl t) : s.clear.SameControl t.clear where
  cfg_eq := h.cfg_eq
  mix_length := by rw [clear_mix, clear_mix, h.cfg_eq]
  slots := fun slot => by cases slot <;> exact SameSlot.refl _
  song_eq := rfl
  fault_eq := rfl
  stuck_eq := rfl
  tables_eq := h.tables_eq
  stream_eq := h.stream_eq
  benches := trivial

theorem State.SameControl.getStuck (h : s.SameControl t) (r : StuckReason) : (s.getStuck r).SameControl (t.getStuck r) :=
  ⟨h.cfg_eq, h.mix_length, h.slots, h.song_eq, h.fault_eq, rfl, h.tables_eq, h.stream_eq, h.benches⟩

theorem State.SameControl.publish (h : s.SameControl t) : s.publish.SameControl t.publish :=
  ⟨h.cfg_eq, h.mix_length, h.slots, h.song_eq, h.fault_eq, h.stuck_eq, h.tables_eq, h.stream_eq, h.benches⟩

theorem State.SameControl.zeroMix (h : s.SameControl t) : s.zeroMix.SameControl t.zeroMix :=
  h.render (by rw [h.cfg_eq]) s.draws t.draws

end Replace

/-! ## PULL -/

/-- What a set-up puts into a slot depends on the configuration and the tables only. -/
theorem patternVoice_congr {s t : State} (hc : s.cfg = t.cfg) (ht : s.tables = t.tables) (r : PatternRec) (c : Nat) (k : Fin 4) :
    s.patternVoice r c k = t.patternVoice r c k := by
  simp only [State.patternVoice, hc, startVoice_congr hc ht]

/-- Two renderings that both end, in states that differ at most in sound, or fail for the same reason. -/
inductive SameRendering : Except StuckReason State → Except StuckReason State → Prop where
  | ok {s t : State} (h : s.SameControl t) : SameRendering (.ok s) (.ok t)
  | error (r : StuckReason) : SameRendering (.error r) (.error r)

section Pull
variable {s t : State}

theorem updateSlot_sameControl (h : s.SameControl t) (slot : SlotId) : SameRendering (s.updateSlot slot) (t.updateSlot slot) := by
  unfold State.updateSlot
  obtain ⟨hs, ht⟩ | ⟨v, w, hs, ht, hvw⟩ := sameSlot_cases (h.slots slot)
  · simp only [hs, ht]
    exact .ok h
  · have hout : (updateVoice s.cfg v s.mix s.draws).SameControl (updateVoice t.cfg w t.mix t.draws) :=
      h.cfg_eq ▸ updateVoice_sameControl hvw h.mix_length
    simp only [hs, ht]
    generalize updateVoice s.cfg v s.mix s.draws = x, updateVoice t.cfg w t.mix t.draws = y at hout
    cases hout with
    | alive hv hl => exact .ok ((h.render hl _ _).setVoice slot hv.slot)
    | died hv hl =>
      exact .ok (((h.render hl _ _).setSong (by rw [h.song_eq, hv.cursor_eq])).setVoice slot (SameSlot.refl none))
    | endless => exact .error _

theorem updateSlots_sameControl (slots : List SlotId) (h : s.SameControl t) :
    SameRendering (s.updateSlots slots) (t.updateSlots slots) := by
  induction slots generalizing s t with
  | nil => exact .ok h
  | cons slot rest ih =>
    have hout := updateSlot_sameControl h slot
    unfold State.updateSlots
    generalize s.updateSlot slot = x, t.updateSlot slot = y at hout
    cases hout with
    | ok hu => exact ih hu
    | error r => exact .error r

/-- The cursor of a voice is control. -/
theorem carriedCursor_sameControl (h : s.SameControl t) : s.carriedCursor = t.carriedCursor := by
  unfold State.carriedCursor
  rw [← h.song_eq]
  cases s.song.ref with
  | none => rfl
  | dead c => rfl
  | live k =>
    obtain ⟨hs, ht⟩ | ⟨v, w, hs, ht, hvw⟩ := sameSlot_cases (h.slots (.mus k)) <;> rw [voice_mus] at hs ht
    · simp only [State.musCursor, hs, ht]
    · simp only [State.musCursor, hs, ht, hvw.cursor_eq]

theorem State.SameControl.setUpPattern (h : s.SameControl t) (p : Fin 64) : (s.setUpPattern p).SameControl (t.setUpPattern p) := by
  have hdec := decodePattern_congr h.cfg_eq h.tables_eq p
  have hmus : (s.setUpPattern p).mus = (t.setUpPattern p).mus := by
    simp only [setUpPattern_mus, patternVoice_congr h.cfg_eq h.tables_eq, hdec, carriedCursor_sameControl h]
  have hsong : (s.setUpPattern p).song = (t.setUpPattern p).song := by
    rw [setUpPattern_song, setUpPattern_song, ← setUpPattern_mus, ← setUpPattern_mus, hmus, hdec, h.song_eq]
  exact h.setMusic hmus hsong

theorem State.SameControl.moveTo (h : s.SameControl t) (p : Fin 64) : (s.moveTo p).SameControl (t.moveTo p) :=
  (h.setSong (by rw [h.song_eq])).setUpPattern p

theorem State.SameControl.musicStart (h : s.SameControl t) (n : Fin 64) : (s.musicStart n).SameControl (t.musicStart n) :=
  (h.setSong (by rw [h.song_eq])).setUpPattern n

theorem State.SameControl.enterStopped (h : s.SameControl t) : s.enterStopped.SameControl t.enterStopped :=
  h.setMusic rfl (by rw [h.song_eq])

/-- Two song ticks take the same rounds: completion, the next pattern and the pairs seen are control (R246–R255). -/
theorem songTick_sameControl (fuel : Nat) (seen : List (Fin 64 × Nat)) (h : s.SameControl t) :
    SameRendering (songTick fuel seen s) (songTick fuel seen t) := by
  induction fuel generalizing seen s t with
  | zero =>
    rw [songTick, songTick, h.song_eq]
    exact .error _
  | succ fuel ih =>
    have hout := updateSlots_sameControl musSlots h
    unfold songTick
    rw [← h.song_eq]
    cases s.song.mode with
    | stopped => exact .ok h
    | playing =>
      generalize s.updateSlots musSlots = x, t.updateSlots musSlots = y at hout
      cases hout with
      | error r => exact .error r
      | @ok u w hu =>
        have hnext : w.nextPattern = u.nextPattern := by
          rw [nextPattern_congr hu.cfg_eq hu.tables_eq] <;> rw [hu.song_eq]
        dsimp only
        rw [← hu.song_eq, hnext]
        cases u.song.ref with
        | none => exact .ok hu
        | live k => exact .ok hu
        | dead c =>
          cases u.nextPattern with
          | none => exact .ok hu.enterStopped
          | some p =>
            dsimp only
            split
            · exact .error _
            · exact ih _ (hu.moveTo p)

theorem renderVoices_sameControl (h : s.SameControl t) : SameRendering s.renderVoices t.renderVoices := by
  have hout := updateSlots_sameControl sfxSlots h
  unfold State.renderVoices
  generalize s.updateSlots sfxSlots = x, t.updateSlots sfxSlots = y at hout
  cases hout with
  | error r => exact .error r
  | ok hu =>
    dsimp only
    rw [hu.cfg_eq]
    exact songTick_sameControl _ _ hu

end Pull

/-! ## Instructions -/

/-- Two outcomes of the same kind, with the same fault if any, whose states differ at most in sound. -/
inductive SameOutcome : Result → Result → Prop where
  | next {s t : State} (h : s.SameControl t) : SameOutcome (.next s) (.next t)
  | fault (f : Fault) : SameOutcome (.fault f) (.fault f)

section Exec
variable {s t : State}

theorem execPull_sameControl (h : s.SameControl t) (x : BitVec 28) : SameOutcome (execPull x s) (execPull x t) := by
  have hout := renderVoices_sameControl h.zeroMix
  unfold execPull
  generalize s.zeroMix.renderVoices = a, t.zeroMix.renderVoices = b at hout
  cases hout with
  | ok hu => exact .next hu.publish
  | error r => exact .next (h.getStuck r)

theorem execSfxStop_sameControl (h : s.SameControl t) (ch : Int) (x : BitVec 16) :
    SameOutcome (execSfxStop ch x s) (execSfxStop ch x t) := by
  unfold execSfxStop
  split
  · exact .next (h.setSfx fun _ => SameSlot.refl _)
  · cases slotOf ch with
    | none => exact .next h
    | some k => exact .next (h.setVoice (.sfx k) (SameSlot.refl none))

theorem execSfxRelease_sameControl (h : s.SameControl t) (ch : Int) (x : BitVec 16) :
    SameOutcome (execSfxRelease ch x s) (execSfxRelease ch x t) := by
  unfold execSfxRelease
  cases slotOf ch with
  | none => exact .next h
  | some k =>
    obtain ⟨hs, ht⟩ | ⟨v, w, hs, ht, hvw⟩ := sameSlot_cases (h.slots (.sfx k)) <;> rw [voice_sfx] at hs ht
    · simp only [hs, ht]
      exact .next h
    · simp only [hs, ht]
      exact .next (h.setVoice (.sfx k) hvw.release.slot)

theorem State.SameControl.stopInstrument (h : s.SameControl t) (n : Fin 64) :
    (s.stopInstrument n).SameControl (t.stopInstrument n) := by
  refine h.setSfx fun k => ?_
  have hk : SameSlot (exceptInstrument n s.sfx[k]) (exceptInstrument n t.sfx[k]) := by
    obtain ⟨hs, ht⟩ | ⟨v, w, hs, ht, hvw⟩ := sameSlot_cases (h.slots (.sfx k)) <;> rw [voice_sfx] at hs ht <;> rw [hs, ht]
    · trivial
    · unfold exceptInstrument
      dsimp only
      rw [← hvw.instrIdx_eq]
      split
      · trivial
      · exact hvw
  simpa using hk

/-- Which slots are free is control. -/
theorem resolveChannel_sameControl (h : s.SameControl t) (ch : Int) : s.resolveChannel ch = t.resolveChannel ch := by
  have hfree : ∀ k : Fin 4, s.sfx[k].isNone = t.sfx[k].isNone := fun k => by
    obtain ⟨hs, ht⟩ | ⟨v, w, hs, ht, -⟩ := sameSlot_cases (h.slots (.sfx k)) <;>
      rw [voice_sfx] at hs ht <;> simp [hs, ht]
  simp only [State.resolveChannel, State.firstFree, hfree]

theorem State.SameControl.sfxPlay (h : s.SameControl t) (n : Fin 64) (ch off len : Int) :
    (s.sfxPlay n ch off len).SameControl (t.sfxPlay n ch off len) := by
  have hstop := h.stopInstrument n
  unfold State.sfxPlay
  dsimp only
  rw [resolveChannel_sameControl hstop]
  cases (t.stopInstrument n).resolveChannel ch with
  | none => exact hstop
  | some k =>
    dsimp only
    rw [startVoice_congr hstop.cfg_eq hstop.tables_eq]
    exact hstop.setVoice (.sfx k) (SameSlot.refl _)

theorem execSfxPlay_sameControl (h : s.SameControl t) (n ch off len : Int) :
    SameOutcome (execSfxPlay n ch off len s) (execSfxPlay n ch off len t) := by
  unfold execSfxPlay
  cases indexOf n with
  | none => exact .next h
  | some i =>
    dsimp only
    split
    · exact .next (h.sfxPlay i ch off len)
    · exact .next h

theorem execMusic_sameControl (h : s.SameControl t) (n : Int) (x : BitVec 20) :
    SameOutcome (execMusic n x s) (execMusic n x t) := by
  unfold execMusic
  cases indexOf n with
  | none => exact .next h
  | some p => exact .next (h.musicStart p)

/-! ## The bench (log 5) -/

theorem scheduleOnBench_sameControl (h : s.SameControl t) (p : PackedNote) :
    (s.scheduleOnBench fun v k => v.scheduleNote s.cfg.lit k p).SameControl
      (t.scheduleOnBench fun v k => v.scheduleNote t.cfg.lit k p) := by
  unfold State.scheduleOnBench
  obtain ⟨hs, ht⟩ | ⟨a, b, hs, ht, hv, hl⟩ := sameBench_cases h.benches <;> simp only [hs, ht]
  · exact h
  · rw [← hv.task_eq, ← hv.playable_eq]
    cases a.voice.task with
    | some task => exact h
    | none =>
      cases a.voice.playable with
      | none => exact h
      | some k =>
        refine h.setBench (sameBench_some ?_ ?_) s.draws t.draws
        · exact h.cfg_eq ▸ scheduleNote_sameControl hv s.cfg.lit k p
        · exact hl

/-- Whether a sample is rendered depends on the task, the cursor and the buffer's length only. -/
theorem renderOnBench_sameControl (h : s.SameControl t) (step : OscFn) :
    (s.renderOnBench step).SameControl (t.renderOnBench step) := by
  unfold State.renderOnBench
  obtain ⟨hs, ht⟩ | ⟨a, b, hs, ht, hv, hl⟩ := sameBench_cases h.benches <;> simp only [hs, ht]
  · exact h
  · have hcomplete : ∀ task : RenderTask, task.complete t.cfg = task.complete s.cfg := fun task => by rw [h.cfg_eq]
    simp only [← hv.task_eq, ← hv.cursor_eq, hcomplete]
    cases a.voice.task with
    | none => cases a.mix[a.voice.cursor]? <;> cases b.mix[a.voice.cursor]? <;> exact h
    | some task =>
      by_cases hc : a.voice.cursor < a.mix.length
      · rw [List.getElem?_eq_getElem hc, List.getElem?_eq_getElem (hl ▸ hc)]
        dsimp only
        split
        · exact h
        · refine h.setBench (sameBench_some ?_ ?_) _ _
          · obtain ⟨o, ho⟩ := sameControl_iff.mp hv
            rw [ho]
            rfl
          · rw [List.length_set, List.length_set, hl]
      · rw [List.getElem?_eq_none (not_lt.mp hc), List.getElem?_eq_none (hl ▸ not_lt.mp hc)]
        exact h

theorem State.SameControl.selectVoice (h : s.SameControl t) (slot : SlotId) : (s.selectVoice slot).SameControl (t.selectVoice slot) := by
  refine h.setBench ?_ s.draws t.draws
  obtain ⟨hs, ht⟩ | ⟨v, w, hs, ht, hvw⟩ := sameSlot_cases (h.slots slot) <;> rw [hs, ht]
  · trivial
  · exact sameBench_some hvw (by simp [benchOf, h.cfg_eq])

/-- Every instruction, of whatever kind, runs alike in two states that differ at most in sound. -/
theorem exec_sameControl (h : s.SameControl t) (i : Instr) : SameOutcome (exec i s) (exec i t) := by
  cases i with
  | nop x => exact .next h
  | sfxStop ch x => exact execSfxStop_sameControl h ch x
  | sfxRelease ch x => exact execSfxRelease_sameControl h ch x
  | sfxPlay n ch off len => exact execSfxPlay_sameControl h n ch off len
  | sfxReserved n x => exact .next h
  | music n x => exact execMusic_sameControl h n x
  | pull x => exact execPull_sameControl h x
  | reservedOp47 op x => exact .next h
  | reservedOp8F op x => exact .next h
  | fxNone note => exact .next (scheduleOnBench_sameControl h ⟨.none, note⟩)
  | fxSlide note => exact .next (scheduleOnBench_sameControl h ⟨.slide, note⟩)
  | fxVibrato note => exact .next (scheduleOnBench_sameControl h ⟨.vibrato, note⟩)
  | fxDrop note => exact .next (scheduleOnBench_sameControl h ⟨.drop, note⟩)
  | fxFadeIn note => exact .next (scheduleOnBench_sameControl h ⟨.fadeIn, note⟩)
  | fxFadeOut note => exact .next (scheduleOnBench_sameControl h ⟨.fadeOut, note⟩)
  | fxArpFast note => exact .next (scheduleOnBench_sameControl h ⟨.arpFast, note⟩)
  | fxArpSlow note => exact .next (scheduleOnBench_sameControl h ⟨.arpSlow, note⟩)
  | waveTri c => exact .next (renderOnBench_sameControl h oscTri)
  | waveTilt c => exact .next (renderOnBench_sameControl h oscTilt)
  | waveSaw c => exact .next (renderOnBench_sameControl h oscSaw)
  | waveSquare c => exact .next (renderOnBench_sameControl h oscSquare)
  | wavePulse c => exact .next (renderOnBench_sameControl h oscPulse)
  | waveOrgan c => exact .next (renderOnBench_sameControl h oscOrgan)
  | waveNoise c => exact .next (renderOnBench_sameControl h oscNoise)
  | wavePhaser c => exact .next (renderOnBench_sameControl h oscPhaser)

/-! ## Steps -/

theorem State.SameControl.applyReset (h : s.SameControl t) (c : Cfg) : (s.applyReset c).SameControl (t.applyReset c) := by
  unfold State.applyReset
  cases checkCfg c with
  | some f => exact (h.setCfg c).raiseCfgFault f
  | none => exact (h.setCfg c).clear

theorem halted_sameControl (h : s.SameControl t) : s.halted = t.halted := by
  unfold State.halted
  rw [h.fault_eq, h.stuck_eq]

theorem step_sameControl (h : s.SameControl t) : SameOutcome (step s) (step t) := by
  unfold step State.pending
  rw [← h.stream_eq, ← halted_sameControl h]
  rcases s.stream with _ | ⟨i, rest⟩
  · exact .next h
  · have hrest := h.setStream rest
    cases i with
    | reset c => exact .next (hrest.applyReset c)
    | tableWrite a b => exact .next (hrest.writeTable a b)
    | selectVoice slot =>
      cases s.halted with
      | none => exact .next (hrest.selectVoice slot)
      | some f => exact .fault f
    | issue w =>
      cases s.halted with
      | none => exact exec_sameControl hrest (decode w)
      | some f => exact .fault f

end Exec

/-- Settles O59, by a simulation: each operation's control reads control only. -/
theorem soundNeverSteers : Obligations.SoundNeverSteers := by
  intro s s' h
  have hstep := step_sameControl h
  refine ⟨fun t ht => ?_, fun f hf => ?_⟩
  · rw [ht] at hstep
    generalize step s' = y at hstep
    cases hstep with
    | next hst => exact ⟨_, rfl, hst⟩
  · rw [hf] at hstep
    generalize step s' = y at hstep
    cases hstep
    rfl

end Sys2Proof.Machine
end

section
/-! SUPPORT. The pattern sequencer between transitions (44_pattern_sequencer.md): what MUSIC starts (R252), which pattern follows
(R247–R249), and that a silent pattern stays (R257). -/

namespace Sys2Proof.Machine

section Patterns
variable {s t : State}

/-! ## MUSIC (R252) -/

theorem exec_music (n : Fin 64) (x : BitVec 20) (s : State) : exec (.music (n.val : Int) x) s = .next (s.musicStart n) := by
  simp [exec, execMusic]

/-- The cursor the machine carries is the carried cursor of R242 where a live reference names a voice. -/
theorem isCarriedCursor_carriedCursor (h : ∀ k : Fin 4, s.song.ref = .live k → s.mus[k] ≠ none) :
    IsCarriedCursor s s.carriedCursor := by
  unfold State.carriedCursor
  rcases hr : s.song.ref with _ | k | c
  · exact .inl ⟨hr, rfl⟩
  · obtain ⟨v, hv⟩ := Option.ne_none_iff_exists'.mp (h k hr)
    exact .inr (.inl ⟨k, v, hr, hv, by simp only [State.musCursor, hv]⟩)
  · exact .inr (.inr hr)

/-- Settles O14: MUSIC is `musicStart`, and its set-up is that of R241–R243. -/
theorem music : Obligations.Music :=
  ⟨fun n x s hlive => ⟨(s.musicStart n).mus, (s.musicStart n).song.ref, exec_music n x s,
    ⟨s.carriedCursor, isCarriedCursor_carriedCursor hlive, isPatternAt_ofFn s n s.carriedCursor⟩, isReference_selectRef _⟩, rfl⟩

/-! ## The next pattern (R247–R249) -/

/-- The scan finds the greatest pattern at or before `q` whose loopStart directive is set, else pattern 0 (R248). -/
theorem loopScan_spec (s : State) (q : Nat) (hq : q < 64) :
    (s.loopScan q hq).val ≤ q ∧ ((s.decodePattern (s.loopScan q hq)).loopStart = true ∨ s.loopScan q hq = 0) ∧
      ∀ r : Fin 64, s.loopScan q hq < r → r.val ≤ q → (s.decodePattern r).loopStart = false := by
  induction q with
  | zero => exact ⟨le_rfl, .inr rfl, fun r hr hle => absurd (Fin.lt_def.mp hr) (by omega)⟩
  | succ q ih =>
    obtain ⟨hle, hstart, habove⟩ := ih (by omega)
    rw [State.loopScan]
    split
    · next hset => exact ⟨le_rfl, .inl hset, fun r hr hrq => absurd (Fin.lt_def.mp hr) (not_lt.mpr hrq)⟩
    · next hset =>
      refine ⟨by omega, hstart, fun r hr hrq => ?_⟩
      obtain hlt | heq := Nat.lt_or_eq_of_le hrq
      · exact habove r hr (by omega)
      · obtain rfl : r = ⟨q + 1, hq⟩ := Fin.ext heq
        exact Bool.not_eq_true _ ▸ hset

/-- Settles O15, by the branches of `nextPattern`. -/
theorem nextPattern : Obligations.NextPattern := by
  intro s
  refine ⟨fun hstop => by simp [State.nextPattern, hstop], fun hstop hend => ?_, fun hstop hend => ⟨fun hp => ?_, fun p hp => ?_⟩⟩
  · obtain ⟨hle, hstart, habove⟩ := loopScan_spec s s.song.pat.val s.song.pat.isLt
    exact ⟨s.loopScan s.song.pat.val s.song.pat.isLt, by simp [State.nextPattern, hstop, hend], hle, hstart, habove⟩
  · simp [State.nextPattern, hstop, hend, hp]
  · have hlt : s.song.pat.val + 1 < 64 := hp ▸ p.isLt
    simp [State.nextPattern, hstop, hend, hlt, Fin.ext_iff, hp]

/-! ## A silent pattern (R257) -/

theorem selectRef_of_silent {mus : Vector (Option Voice) 4} (h : ∀ k : Fin 4, mus[k] = none) : selectRef mus = .none := by
  obtain ⟨-, href⟩ | ⟨k, v, -, hv, -⟩ := isReference_selectRef mus
  · exact href
  · cases (h k).symm.trans hv

/-- A silent pattern's set-up leaves every music slot empty. -/
theorem setUpPattern_of_silent {p : Fin 64} (h : ∀ j : Fin 4, (s.decodePattern p).channels[j].isSilent = true) :
    (s.setUpPattern p).mus = Vector.replicate 4 none := by
  refine Vector.ext fun k hk => ?_
  have hnone := (isPatternAt_ofFn s p s.carriedCursor ⟨k, hk⟩).1 (h ⟨k, hk⟩)
  simpa using hnone

theorem musicStart_of_silent {n : Fin 64} (h : ∀ j : Fin 4, (s.decodePattern n).channels[j].isSilent = true) :
    s.musicStart n = { s with
      mus := Vector.replicate 4 none
      song := { mode := .playing, pat := n, cur := s.decodePattern n, ref := .none } } := by
  have hmus : (s.musicStart n).mus = Vector.replicate 4 none :=
    setUpPattern_of_silent (s := { s with song := { s.song with mode := .playing, pat := n } }) h
  have href : (s.musicStart n).song.ref = .none := selectRef_of_silent fun k => by
    change (s.musicStart n).mus[k] = none
    rw [hmus]
    simp
  rw [← hmus, ← href]
  rfl

/-- Playing with no reference voice and no music voice: what a silent pattern leaves. -/
structure State.PlaysSilence (s : State) : Prop where
  no_ref : s.song.ref = .none
  no_voice : ∀ j : Fin 4, s.mus[j] = none

/-- A slot's update leaves the song and the music slots of silence. -/
theorem State.PlaysSilence.updateSlot (hs : s.PlaysSilence) {slot : SlotId} (h : s.updateSlot slot = .ok t) :
    t.song = s.song ∧ t.mus = s.mus := by
  obtain ⟨-, rfl⟩ | ⟨v, v', mix, d, hv, -, rfl⟩ | ⟨v, v', mix, d, hv, -, rfl⟩ := updateSlot_ok h
  · exact ⟨rfl, rfl⟩
  · cases slot with
    | sfx k => exact ⟨rfl, rfl⟩
    | mus k => cases (hs.no_voice k).symm.trans hv
  · cases slot with
    | sfx k => exact ⟨rfl, rfl⟩
    | mus k => cases (hs.no_voice k).symm.trans hv

/-- The rendering of a PULL leaves them: nothing completes a pattern without a reference voice. -/
theorem State.PlaysSilence.renderVoices (hs : s.PlaysSilence) (h : s.renderVoices = .ok t) : t.song = s.song ∧ t.mus = s.mus := by
  have hdead : ∀ (u : State) (c : Nat), u.song = s.song → u.song.ref ≠ .dead c := fun u c hu hc => by
    rw [hu, hs.no_ref] at hc
    cases hc
  refine renderVoices_keeps (fun u => u.song = s.song ∧ u.mus = s.mus) (fun u u' slot hu hslot => ?_)
    (fun u c hu hc => absurd hc (hdead u c hu.1)) (fun u c _ hu hc _ => absurd hc (hdead u c hu.1)) ⟨rfl, rfl⟩ h
  obtain ⟨hsong, hmus⟩ := hu
  have hsilent : u.PlaysSilence := ⟨hsong ▸ hs.no_ref, hmus ▸ hs.no_voice⟩
  obtain ⟨hsong', hmus'⟩ := hsilent.updateSlot hslot
  exact ⟨hsong'.trans hsong, hmus'.trans hmus⟩

theorem State.PlaysSilence.ran (hs : s.PlaysSilence) {k : Kind} (hk : k ≠ .music) (h : Ran s k t) :
    t.song = s.song ∧ t.mus = s.mus := by
  cases k with
  | noop =>
    cases h
    exact ⟨rfl, rfl⟩
  | oneShot =>
    rw [h.oneShot_frame]
    exact ⟨rfl, rfl⟩
  | music => exact absurd rfl hk
  | selector =>
    rw [h.selector_frame]
    exact ⟨rfl, rfl⟩
  | pull =>
    cases h with
    | nothing => exact ⟨rfl, rfl⟩
    | gotStuck r => exact ⟨rfl, rfl⟩
    | published u hu =>
      have hsilent : s.zeroMix.PlaysSilence := ⟨hs.no_ref, hs.no_voice⟩
      have hkeeps : u.song = s.zeroMix.song ∧ u.mus = s.zeroMix.mus := hsilent.renderVoices hu
      exact hkeeps

/-- Only MUSIC is of its kind. -/
theorem eq_music_of_kindOf {i : Instr} (h : kindOf i = .music) : ∃ n x, i = .music n x := by
  cases i <;> cases h
  exact ⟨_, _, rfl⟩

end Patterns

/-- Settles O18: MUSIC of a silent pattern leaves silence, and every run but MUSIC keeps it. -/
theorem silentPatternStays : Obligations.SilentPattern := by
  refine ⟨fun n x s hsilent => by rw [exec_music, musicStart_of_silent hsilent], fun i s t _ href hmus hi h => ?_⟩
  refine State.PlaysSilence.ran ⟨href, hmus⟩ (fun hk => ?_) (ran_of_exec h)
  obtain ⟨n, x, rfl⟩ := eq_music_of_kindOf hk
  exact hi n x rfl

end Sys2Proof.Machine
end

section
/-! SUPPORT. The rounds of the song tick (44_pattern_sequencer.md R246–R251, R255): an equation for each way a round ends, and that
the model's number of rounds decides no outcome (log 7). -/

namespace Sys2Proof.Machine

section Rounds
variable {s u : State} {fuel : Nat} {seen : List (Fin 64 × Nat)} {c : Nat} {p : Fin 64}

/-! ## One round -/

theorem songTick_of_error {r : StuckReason} (hm : s.song.mode = .playing) (hu : s.updateSlots musSlots = .error r) :
    songTick (fuel + 1) seen s = .error r := by
  simp only [songTick, hm, hu]

theorem songTick_of_incomplete (hm : s.song.mode = .playing) (hu : s.updateSlots musSlots = .ok u)
    (hr : ∀ c, u.song.ref ≠ .dead c) : songTick (fuel + 1) seen s = .ok u := by
  simp only [songTick, hm, hu]
  split
  · rfl
  · rfl
  · next c hc => exact absurd hc (hr c)

theorem songTick_of_no_next (hm : s.song.mode = .playing) (hu : s.updateSlots musSlots = .ok u) (hr : u.song.ref = .dead c)
    (hn : u.nextPattern = none) : songTick (fuel + 1) seen s = .ok u.enterStopped := by
  simp only [songTick, hm, hu, hr, hn]

theorem songTick_of_seen (hm : s.song.mode = .playing) (hu : s.updateSlots musSlots = .ok u) (hr : u.song.ref = .dead c)
    (hn : u.nextPattern = some p) (hseen : (p, c) ∈ seen) : songTick (fuel + 1) seen s = .error (.patternChainLoop p) := by
  simp only [songTick, hm, hu, hr, hn, if_pos hseen]

theorem songTick_of_new (hm : s.song.mode = .playing) (hu : s.updateSlots musSlots = .ok u) (hr : u.song.ref = .dead c)
    (hn : u.nextPattern = some p) (hnew : (p, c) ∉ seen) :
    songTick (fuel + 1) seen s = songTick fuel ((p, c) :: seen) (u.moveTo p) := by
  simp only [songTick, hm, hu, hr, hn, if_neg hnew]

/-! ## The number of rounds (log 7) -/

/-- There are 64·B pairs of a pattern and a cursor in the buffer (R255). -/
theorem length_le_of_pairs {B : Nat} (hnodup : seen.Nodup) (hlt : ∀ q ∈ seen, q.2 < B) : seen.length ≤ 64 * B := by
  have hsub : seen.toFinset ⊆ Finset.univ ×ˢ Finset.range B := fun q hq => by
    simpa using hlt q (List.mem_toFinset.mp hq)
  calc seen.length = seen.toFinset.card := (List.toFinset_card_of_nodup hnodup).symm
    _ ≤ (Finset.univ ×ˢ Finset.range B).card := Finset.card_le_card hsub
    _ = 64 * B := by simp

/-- More rounds than there are pairs not yet seen give the same outcome: each round but the last adds a pair. -/
theorem songTick_eq_of_le {fuel' : Nat} (hs : s.Running) (hnodup : seen.Nodup) (hlt : ∀ q ∈ seen, q.2 < s.cfg.B)
    (hfuel : 64 * s.cfg.B < fuel + seen.length) (hle : fuel ≤ fuel') : songTick fuel' seen s = songTick fuel seen s := by
  induction fuel generalizing s seen fuel' with
  | zero =>
    have := length_le_of_pairs hnodup hlt
    omega
  | succ fuel ih =>
    obtain ⟨fuel', rfl⟩ : ∃ k, fuel' = k + 1 := ⟨fuel' - 1, by omega⟩
    rcases hm : s.song.mode with _ | _
    · rw [songTick_stopped hm, songTick_stopped hm]
    rcases hu : s.updateSlots musSlots with r | u
    · rw [songTick_of_error hm hu, songTick_of_error hm hu]
    by_cases hdead : ∃ c, u.song.ref = .dead c
    case neg =>
      have hlives : ∀ c, u.song.ref ≠ .dead c := not_exists.mp hdead
      rw [songTick_of_incomplete hm hu hlives, songTick_of_incomplete hm hu hlives]
    obtain ⟨c, hr⟩ := hdead
    rcases hn : u.nextPattern with _ | p
    · rw [songTick_of_no_next hm hu hr hn, songTick_of_no_next hm hu hr hn]
    by_cases hseen : (p, c) ∈ seen
    · rw [songTick_of_seen hm hu hr hn hseen, songTick_of_seen hm hu hr hn hseen]
    obtain ⟨hur, hum⟩ := hs.updateSlots hu
    obtain ⟨hcfg, -⟩ := updateSlots_tables hu
    rw [songTick_of_new hm hu hr hn hseen, songTick_of_new hm hu hr hn hseen]
    refine ih (hur.moveTo (hum.trans hm) p) (List.nodup_cons.mpr ⟨hseen, hnodup⟩) (fun q hq => ?_) ?_ (by omega)
    · rw [moveTo_cfg, hcfg]
      obtain rfl | hq := List.mem_cons.mp hq
      · exact hcfg ▸ hur.song_ok.dead_ref c hr
      · exact hlt q hq
    · rw [moveTo_cfg, hcfg, List.length_cons]
      omega

end Rounds

/-- Settles O25: a tick that goes on has set up another of the 64·B pairs. -/
theorem songFuelSuffices : Obligations.SongFuelSuffices := by
  intro s fuel hs hle
  exact songTick_eq_of_le hs List.nodup_nil (fun _ hq => nomatch hq) (by unfold songFuel; simp) hle

end Sys2Proof.Machine
end

section
/-! SUPPORT. Pattern transitions within one PULL (44_pattern_sequencer.md R246–R251): what the updates of a PULL make of the slots, in
the terms of the statements (`PlayedTo`, `Voice.EndsAt`), the song tick along a chain of transitions, and how it ends. -/

namespace Sys2Proof.Machine

/-! ## What one update makes of a slot (43_step_sequencer.md R219–R222) -/

section OneSlot
variable {cfg : Cfg} {v v' : Voice} {mix mix' : List Exact} {d d' c : Nat}

theorem endsAt_unique {c' : Nat} (h : v.EndsAt cfg c) (h' : v.EndsAt cfg c') : c = c' := by
  obtain ⟨-, hc, -⟩ := h
  obtain ⟨-, hc', -⟩ := h'
  exact hc.trans hc'.symm

/-- A voice that lives on did not run out of samples in the buffer. -/
theorem not_endsAt_of_alive (hv : v.Ok cfg) (hl : mix.length = cfg.B) (h : updateVoice cfg v mix d = .alive v' mix' d') :
    ¬ v.EndsAt cfg c := by
  rintro ⟨hn, hc, hlt⟩
  obtain ⟨-, -, -, hspent⟩ := updateVoice_alive_spends hv hl h
  have := (hspent hn).1
  omega

theorem playedTo_of_alive (hv : v.Ok cfg) (hl : mix.length = cfg.B) (h : updateVoice cfg v mix d = .alive v' mix' d') :
    PlayedTo cfg (some v) (some v') := by
  refine ⟨nofun, fun w hw => ?_⟩
  cases hw
  refine ⟨fun ⟨c, hc⟩ => absurd hc (not_endsAt_of_alive hv hl h), fun _ => ?_⟩
  obtain ⟨hcursor, htask, -, hspent⟩ := updateVoice_alive_spends hv hl h
  have hid := updateVoice_sameIdentity h
  exact ⟨v', rfl, hid.instrIdx_eq, hid.instr_eq, hcursor, htask, fun hn => (hspent hn).2⟩

theorem playedTo_of_endsAt (h : v.EndsAt cfg c) : PlayedTo cfg (some v) none := by
  refine ⟨nofun, fun w hw => ?_⟩
  cases hw
  exact ⟨fun _ => rfl, fun hlives => absurd h (hlives c)⟩

/-- A run of a slot plays it, and its voice dies exactly where its samples end. -/
theorem slotRun_playedTo {slot slot' : Option Voice} {x x' : Rendering} {died : Option Nat} (hok : ∀ v, slot = some v → v.Ok cfg)
    (hl : x.mix.length = cfg.B) (h : SlotRun cfg slot x slot' x' died) :
    x'.mix.length = cfg.B ∧ PlayedTo cfg slot slot' ∧ ∀ c, died = some c ↔ ∃ v, slot = some v ∧ v.EndsAt cfg c := by
  rcases slot with _ | v
  · obtain ⟨rfl, rfl, rfl⟩ := h
    exact ⟨hl, ⟨fun _ => rfl, fun _ hv => nomatch hv⟩, by simp⟩
  · have hv := hok v rfl
    obtain ⟨v', hu, rfl, rfl⟩ | ⟨v', hu, rfl, rfl⟩ := h
    · refine ⟨(updateVoice_alive_ok hv hl hu).2.2, playedTo_of_alive hv hl hu, fun c => ⟨(fun hc => nomatch hc), ?_⟩⟩
      rintro ⟨w, hw, hend⟩
      cases hw
      exact absurd hend (not_endsAt_of_alive hv hl hu)
    · obtain ⟨hend, -⟩ := updateVoice_died_endsAt hv hl hu
      refine ⟨(updateVoice_died_ok hv hl hu).2, playedTo_of_endsAt hend, fun c => ⟨fun hc => ?_, ?_⟩⟩
      · cases hc
        exact ⟨v, rfl, hend⟩
      · rintro ⟨w, hw, hend'⟩
        cases hw
        rw [endsAt_unique hend hend']

/-- The runs of four slots play each, and each voice dies exactly where its samples end. -/
theorem slotsRun_playedTo {slots slots' : Vector (Option Voice) 4} {x x' : Rendering} {died : Fin 4 → Option Nat}
    (hok : ∀ (k : Fin 4) v, slots[k] = some v → v.Ok cfg) (hl : x.mix.length = cfg.B) (h : SlotsRun cfg slots x slots' x' died)
    (k : Fin 4) : PlayedTo cfg slots[k] slots'[k] ∧ ∀ c, died k = some c ↔ ∃ v, slots[k] = some v ∧ v.EndsAt cfg c := by
  obtain ⟨x1, x2, x3, h0, h1, h2, h3⟩ := h
  obtain ⟨hl1, hr0⟩ := slotRun_playedTo (hok 0) hl h0
  obtain ⟨hl2, hr1⟩ := slotRun_playedTo (hok 1) hl1 h1
  obtain ⟨hl3, hr2⟩ := slotRun_playedTo (hok 2) hl2 h2
  obtain ⟨-, hr3⟩ := slotRun_playedTo (hok 3) hl3 h3
  match k with
  | 0 => exact hr0
  | 1 => exact hr1
  | 2 => exact hr2
  | 3 => exact hr3

end OneSlot

/-! ## The updates of the slots of a PULL -/

section Slots
variable {s t u w : State}

/-- In a running block the updates of different slots end when none of their voices meets Z. -/
theorem updateSlots_ok_of_no_Z {slots : List SlotId} (hnodup : slots.Nodup) (hs : s.Running)
    (hz : ∀ slot ∈ slots, ∀ v, s.voice slot = some v → ¬ v.Z) : ∃ u, s.updateSlots slots = .ok u := by
  induction slots generalizing s with
  | nil => exact ⟨s, rfl⟩
  | cons slot rest ih =>
    obtain ⟨hnew, hnodup⟩ := List.nodup_cons.mp hnodup
    rcases hu : s.updateSlot slot with r | u
    · obtain ⟨-, v, hv, hend⟩ := updateSlot_error hu
      exact absurd hend
        (updateVoice_ne_endless hs.cfg_valid (hs.voices_ok slot v hv) (hz slot List.mem_cons_self v hv) hs.mix_length)
    · obtain ⟨t, ht⟩ := ih hnodup (hs.updateSlot hu) fun slot' hm v hv =>
        hz slot' (List.mem_cons_of_mem _ hm) v (voice_updateSlot_other hu (fun he => hnew (he ▸ hm)) ▸ hv)
      exact ⟨t, updateSlots_cons_ok.mpr ⟨u, hu, ht⟩⟩

/-- The updates of the one-shot slots leave the music slots. -/
theorem updateSlots_sfx_mus (h : s.updateSlots sfxSlots = .ok t) : t.mus = s.mus := by
  refine updateSlots_keeps (fun u => u.mus = s.mus) sfxSlots (fun u u' slot hm hP hu => ?_) rfl h
  refine Eq.trans (Vector.ext fun k hk => ?_) hP
  exact voice_updateSlot_other (slot' := .mus ⟨k, hk⟩) hu fun he => by simp [← he, sfxSlots] at hm

/-- The updates of the one-shot slots play them. -/
theorem updateSlots_sfx_playedTo (hs : s.Running) (h : s.updateSlots sfxSlots = .ok t) (k : Fin 4) :
    PlayedTo s.cfg s.sfx[k] t.sfx[k] := by
  obtain ⟨died, hrun, -⟩ := slotsRun_sfx h
  exact (slotsRun_playedTo (fun k => hs.voices_ok (.sfx k)) hs.mix_length hrun k).1

/-- The rendering of a PULL plays the one-shot slots. -/
theorem renderVoices_playedTo (hs : s.Running) (h : s.renderVoices = .ok t) (k : Fin 4) : PlayedTo s.cfg s.sfx[k] t.sfx[k] := by
  obtain ⟨u, hu, htick⟩ := renderVoices_ok.mp h
  rw [songTick_sfx htick k]
  exact updateSlots_sfx_playedTo hs hu k

/-- `w` is `u` after the updates of its music slots, in which the voices died at the cursors `died`. -/
structure State.MusicPlayed (u w : State) (died : Fin 4 → Option Nat) : Prop where
  running : w.Running
  cfg_eq : w.cfg = u.cfg
  tables_eq : w.tables = u.tables
  song_eq : w.song = { u.song with ref := refAfter u.song.ref died }
  played : ∀ k : Fin 4, PlayedTo u.cfg u.mus[k] w.mus[k]
  died_iff : ∀ (k : Fin 4) (c : Nat), died k = some c ↔ ∃ v, u.mus[k] = some v ∧ v.EndsAt u.cfg c

theorem musicPlayed_of_no_Z (hs : u.Running) (hz : ∀ (k : Fin 4) v, u.mus[k] = some v → ¬ v.Z) :
    ∃ w died, u.updateSlots musSlots = .ok w ∧ u.MusicPlayed w died := by
  obtain ⟨w, hw⟩ := updateSlots_ok_of_no_Z (slots := musSlots) (by decide) hs fun slot hm => by
    cases slot with
    | sfx k => simp [musSlots] at hm
    | mus k => exact hz k
  obtain ⟨died, hrun, hsong⟩ := slotsRun_mus hw
  obtain ⟨hcfg, htables⟩ := updateSlots_tables hw
  have hplayed := slotsRun_playedTo (fun k => hs.voices_ok (.mus k)) hs.mix_length hrun
  exact ⟨w, died, hw, (hs.updateSlots hw).1, hcfg, htables, hsong, fun k => (hplayed k).1, fun k => (hplayed k).2⟩

/-- The reference is dead where its voice's samples end (R246). -/
theorem State.MusicPlayed.ref_dead {died : Fin 4 → Option Nat} (h : u.MusicPlayed w died) {j : Fin 4} {v : Voice} {c : Nat}
    (href : u.song.ref = .live j) (hv : u.mus[j] = some v) (hend : v.EndsAt u.cfg c) : w.song.ref = .dead c := by
  have hdied := (h.died_iff j c).mpr ⟨v, hv, hend⟩
  simp only [h.song_eq, refAfter, href, hdied]

/-- A reference that is not dead stays when its voice's samples reach the buffer end. -/
theorem State.MusicPlayed.ref_stays {died : Fin 4 → Option Nat} (h : u.MusicPlayed w died) (hdead : ∀ c, u.song.ref ≠ .dead c)
    (hlives : ∀ (j : Fin 4) v, u.song.ref = .live j → u.mus[j] = some v → ∀ c, ¬ v.EndsAt u.cfg c) : w.song.ref = u.song.ref := by
  rw [h.song_eq]
  rcases href : u.song.ref with _ | j | c
  · rfl
  · rcases hdied : died j with _ | c
    · simp only [refAfter, hdied]
    · obtain ⟨v, hv, hend⟩ := (h.died_iff j c).mp hdied
      exact absurd hend (hlives j v href hv c)
  · exact absurd href (hdead c)

end Slots

/-! ## What the statements say of a set-up determines it (R241, R243) -/

section SetUp
variable {s u : State} {mus : Vector (Option Voice) 4}

theorem IsFreshVoice.eq_startVoice {n : Fin 64} {off len : Int} {c : Nat} {v : Voice} (h : IsFreshVoice s n off len c v) :
    v = s.startVoice n off len c := by
  have hstep : v.step = firstStep off := Fin.ext (Int.ofNat_inj.mp (h.step_eq.trans (firstStep_val off).symm))
  have hlast : v.lastStep = lastPlayable off len := Fin.ext (Int.ofNat_inj.mp (h.lastStep_eq.trans (lastPlayable_val off len).symm))
  have hrng : v.osc.rng = NoiseSource.seed s.cfg.noise := h.rng_eq.trans (isFreshVoice_startVoice s n off len c).rng_eq.symm
  obtain ⟨_, _, _, _, _, _, _, _, _, _, _, ⟨_, _, _⟩⟩ := v
  simp only [State.startVoice, freshOsc, Voice.mk.injEq, OscState.mk.injEq]
  exact ⟨h.instrIdx_eq, h.instr_eq, hstep, hlast, h.alive_eq, h.active_eq, h.loop_eq, h.cursor_eq, h.task_eq, h.pendFade_eq,
    h.prevPitch_eq, h.phase_eq, h.ns_eq, hrng⟩

/-- The slots of a set-up are those the machine fills. -/
theorem IsPatternAt.eq_ofFn {p : Fin 64} {c : Nat} (h : IsPatternAt s p c mus) :
    mus = Vector.ofFn fun k => s.patternVoice (s.decodePattern p) c k := by
  refine Vector.ext fun k hk => ?_
  obtain ⟨hsilent, hfresh⟩ := h ⟨k, hk⟩
  obtain ⟨hsilent', hfresh'⟩ := isPatternAt_ofFn s p c ⟨k, hk⟩
  rcases hq : (s.decodePattern p).channels[(⟨k, hk⟩ : Fin 4)].isSilent with _ | _
  · obtain ⟨v, hv, hvfresh⟩ := hfresh hq
    obtain ⟨v', hv', hvfresh'⟩ := hfresh' hq
    rw [hvfresh.eq_startVoice] at hv
    rw [hvfresh'.eq_startVoice] at hv'
    exact hv.trans hv'.symm
  · exact (hsilent hq).trans (hsilent' hq).symm

/-- The reference voice of R243 is one: of the candidates of greatest speed, the least channel. -/
theorem IsReference.eq {ref ref' : RefVoice} (h : IsReference mus ref) (h' : IsReference mus ref') : ref = ref' := by
  obtain ⟨hnone, rfl⟩ | ⟨k, v, rfl, hv, hcand, hbest⟩ := h <;>
    obtain ⟨hnone', rfl⟩ | ⟨k', v', rfl, hv', hcand', hbest'⟩ := h'
  · rfl
  · cases (hnone k').symm.trans hv'
  · cases (hnone' k).symm.trans hv
  · have hle := hbest k' v' hv' hcand'
    have hle' := hbest' k v hv hcand
    simp only [Fin.lt_def, Fin.le_def, Fin.ext_iff] at hle hle'
    rw [Fin.ext (show k.val = k'.val by omega)]

/-- A transition at cursor `c` sets up the slots and the reference that R241 and R243 say (R248, R249). -/
theorem moveTo_of_isPatternAt {p : Fin 64} {c : Nat} {ref : RefVoice} (hcfg : u.cfg = s.cfg) (htables : u.tables = s.tables)
    (hc : u.song.ref = .dead c) (hset : IsPatternAt s p c mus) (href : IsReference mus ref) :
    (u.moveTo p).mus = mus ∧ (u.moveTo p).song = { u.song with pat := p, cur := s.decodePattern p, ref := ref } := by
  have hmus : (u.moveTo p).mus = mus := by
    have hcarried : u.carriedCursor = c := by simp only [State.carriedCursor, hc]
    rw [moveTo_mus, hset.eq_ofFn]
    simp only [hcarried, decodePattern_congr hcfg htables, patternVoice_congr hcfg htables]
  refine ⟨hmus, ?_⟩
  rw [moveTo_song, hmus, (isReference_selectRef mus).eq href, decodePattern_congr hcfg htables]

end SetUp

/-! ## Along a chain of transitions -/

/-- `u` is a state of a song tick, in a PULL from `s`, in which pattern `p` is current after `i` transitions, with the music slots
`mus` and the reference voice `ref`. -/
structure State.Reached (s : State) (i : Nat) (p : Fin 64) (mus : Vector (Option Voice) 4) (ref : RefVoice) (u : State) : Prop where
  running : u.Running
  cfg_eq : u.cfg = s.cfg
  tables_eq : u.tables = s.tables
  mus_eq : u.mus = mus
  song_eq : u.song = { mode := .playing, pat := p, cur := s.recordAt i p, ref := ref }

section Reached
variable {s u w : State} {i : Nat} {p : Fin 64} {mus : Vector (Option Voice) 4} {ref : RefVoice}

theorem State.Reached.mode_eq (h : s.Reached i p mus ref u) : u.song.mode = .playing := by rw [h.song_eq]

/-- The updates of the music slots leave the directives of the current pattern. -/
theorem State.Reached.nextPattern_eq (h : s.Reached i p mus ref u) {died : Fin 4 → Option Nat} (hw : u.MusicPlayed w died) :
    w.nextPattern = s.nextAt i p :=
  nextPattern_congr (hw.cfg_eq.trans h.cfg_eq) (hw.tables_eq.trans h.tables_eq) (by rw [hw.song_eq, h.song_eq])
    (by rw [hw.song_eq, h.song_eq])

/-- One transition: the reference voice ends in the buffer, and the next pattern is set up there with a pair not seen before. -/
theorem State.Reached.transition (h : s.Reached i p mus ref u) (hz : ∀ (k : Fin 4) v, mus[k] = some v → ¬ v.Z) {j : Fin 4} {v : Voice}
    {c : Nat} (href : ref = .live j) (hv : mus[j] = some v) (hend : v.EndsAt s.cfg c) {q : Fin 64} (hnext : s.nextAt i p = some q)
    {seen : List (Fin 64 × Nat)} (hnew : (q, c) ∉ seen) {mus' : Vector (Option Voice) 4} {ref' : RefVoice}
    (hset : IsPatternAt s q c mus') (href' : IsReference mus' ref') :
    ∃ w, s.Reached (i + 1) q mus' ref' w ∧ ∀ fuel, songTick (fuel + 1) seen u = songTick fuel ((q, c) :: seen) w := by
  obtain ⟨w, died, hu, hw⟩ := musicPlayed_of_no_Z h.running (h.mus_eq ▸ hz)
  have hcfg := hw.cfg_eq.trans h.cfg_eq
  have htables := hw.tables_eq.trans h.tables_eq
  have hdead : w.song.ref = .dead c := hw.ref_dead (by rw [h.song_eq, href]) (h.mus_eq ▸ hv) (h.cfg_eq ▸ hend)
  have hmode : w.song.mode = .playing := by rw [hw.song_eq, h.mode_eq]
  obtain ⟨hmus, hsong⟩ := moveTo_of_isPatternAt hcfg htables hdead hset href'
  refine ⟨w.moveTo q, ⟨hw.running.moveTo hmode q, hcfg, htables, hmus, ?_⟩, fun fuel => ?_⟩
  · simp only [hsong, hmode, State.recordAt, if_neg (Nat.succ_ne_zero i)]
  · exact songTick_of_new h.mode_eq hu hdead ((h.nextPattern_eq hw).trans hnext) hnew

end Reached

/-- The pairs that the first `i` transitions of a chain set up, the last first. -/
def chainPairs (p : Nat → Fin 64) (c : Nat → Nat) : Nat → List (Fin 64 × Nat)
  | 0 => []
  | i + 1 => (p (i + 1), c (i + 1)) :: chainPairs p c i

theorem mem_chainPairs {p : Nat → Fin 64} {c : Nat → Nat} {i : Nat} {q : Fin 64 × Nat} :
    q ∈ chainPairs p c i ↔ ∃ j, 1 ≤ j ∧ j ≤ i ∧ q = (p j, c j) := by
  induction i with
  | zero =>
    simp only [chainPairs, List.not_mem_nil, false_iff]
    rintro ⟨j, h1, h0, -⟩
    omega
  | succ i ih =>
    rw [chainPairs, List.mem_cons, ih]
    constructor
    · rintro (rfl | ⟨j, h1, hj, rfl⟩)
      · exact ⟨i + 1, by omega, le_rfl, rfl⟩
      · exact ⟨j, h1, by omega, rfl⟩
    · rintro ⟨j, h1, hj, rfl⟩
      obtain hlt | rfl := Nat.lt_or_eq_of_le hj
      · exact .inr ⟨j, h1, by omega, rfl⟩
      · exact .inl rfl

section Chain
variable {s u : State} {m : Nat} {p : Nat → Fin 64} {c : Nat → Nat} {mus : Nat → Vector (Option Voice) 4} {ref : Nat → RefVoice}

/-- The song tick runs along the chain: after `i` rounds its `i`-th pattern is set up. -/
theorem State.Chain.songTick_eq (hch : s.Chain m p c mus ref) (hu : s.Reached 0 (p 0) (mus 0) (ref 0) u) {i : Nat} (hi : i ≤ m) :
    ∃ w, s.Reached i (p i) (mus i) (ref i) w ∧ ∀ fuel, songTick (fuel + i) [] u = songTick fuel (chainPairs p c i) w := by
  induction i with
  | zero => exact ⟨u, hu, fun _ => rfl⟩
  | succ i ih =>
    obtain ⟨w, hw, heq⟩ := ih (by omega)
    obtain ⟨j, v, href, hv, hend⟩ := hch.ends i hi
    obtain ⟨hset, href'⟩ := hch.set_up i hi
    have hnew : (p (i + 1), c (i + 1)) ∉ chainPairs p c i := fun hmem => by
      obtain ⟨k, h1, hk, he⟩ := mem_chainPairs.mp hmem
      exact hch.new_pairs k (i + 1) h1 (by omega) hi he.symm
    obtain ⟨w', hw', heq'⟩ := hw.transition (hch.no_endless i hi) href hv hend (hch.next i hi) hnew hset href'
    refine ⟨w', hw', fun fuel => ?_⟩
    rw [show fuel + (i + 1) = fuel + 1 + i by omega, heq, heq', chainPairs]

/-- The rendering of a PULL along a chain is the song tick of its last pattern. -/
theorem State.Chain.renderVoices_eq (hch : s.Chain m p c mus ref) (hs : s.PlaysSong) :
    ∃ w, s.Reached m (p m) (mus m) (ref m) w ∧
      s.zeroMix.renderVoices = songTick (songFuel s.cfg) (chainPairs p c m) w := by
  obtain ⟨hrun, hmode, hsfx⟩ := hs
  obtain ⟨hp, hmus, href⟩ := hch.start
  obtain ⟨u, hu⟩ := updateSlots_ok_of_no_Z (slots := sfxSlots) (by decide) hrun.zeroMix fun slot hm => by
    cases slot with
    | sfx k => exact hsfx k
    | mus k => simp [sfxSlots] at hm
  obtain ⟨hcfg, htables⟩ := updateSlots_tables hu
  obtain ⟨-, -, hsong⟩ := slotsRun_sfx hu
  obtain ⟨hur, -⟩ := hrun.zeroMix.updateSlots hu
  have hreached : s.Reached 0 (p 0) (mus 0) (ref 0) u :=
    ⟨hur, hcfg, htables, by rw [updateSlots_sfx_mus hu, hmus]; rfl, by rw [hsong, hp, href, ← hmode]; rfl⟩
  obtain ⟨w, hw, heq⟩ := hch.songTick_eq hreached le_rfl
  refine ⟨w, hw, ?_⟩
  have hfuel : songFuel u.cfg = songFuel s.cfg := congrArg songFuel hcfg
  rw [← heq, State.renderVoices, hu]
  dsimp only
  rw [← hfuel]
  exact (songFuelSuffices u _ hur (Nat.le_add_right _ m)).symm

/-- A PULL whose rendering ends publishes it, and has played the one-shot slots. -/
theorem exec_pull_of_renderVoices {t : State} (hs : s.Running) (h : s.zeroMix.renderVoices = .ok t) (x : BitVec 28) :
    exec (.pull x) s = .next t.publish ∧ t.stuck = s.stuck ∧ ∀ k : Fin 4, PlayedTo s.cfg s.sfx[k] t.sfx[k] := by
  obtain ⟨-, hstuck⟩ := renderVoices_cfg_stuck h
  exact ⟨by simp only [exec, execPull, h], hstuck, renderVoices_playedTo (s := s.zeroMix) hs.zeroMix h⟩

end Chain

/-- Settles O16: the last pattern's round finds the reference dead and no next pattern. -/
theorem pullStopsSong : Obligations.PullStopsSong := by
  intro s m p c mus ref j v stop x hs hch hz href hv hend hnext
  obtain ⟨w, hw, heq⟩ := hch.renderVoices_eq hs
  obtain ⟨hrun, -, -⟩ := hs
  obtain ⟨w', died, hu, hplayed⟩ := musicPlayed_of_no_Z hw.running (hw.mus_eq ▸ hz)
  have hdead : w'.song.ref = .dead stop := hplayed.ref_dead (by rw [hw.song_eq, href]) (hw.mus_eq ▸ hv) (hw.cfg_eq ▸ hend)
  have hrender : s.zeroMix.renderVoices = .ok w'.enterStopped :=
    heq.trans (songTick_of_no_next hw.mode_eq hu hdead ((hw.nextPattern_eq hplayed).trans hnext))
  obtain ⟨hexec, hstuck, hsfx⟩ := exec_pull_of_renderVoices hrun hrender x
  refine ⟨_, hexec, hstuck, rfl, ?_, fun k => by simp, hsfx⟩
  have hsong : w'.song = { w.song with ref := .dead stop } := by rw [← hdead, hplayed.song_eq]
  rw [publish_song, enterStopped_song, hsong, hw.song_eq]

/-- Settles O17: the last pattern's round leaves its reference, and plays its voices to the buffer end. -/
theorem pullMovesOn : Obligations.PullMovesOn := by
  intro s m p c mus ref x hs hch hz hdead hlives
  obtain ⟨w, hw, heq⟩ := hch.renderVoices_eq hs
  obtain ⟨hrun, -, -⟩ := hs
  obtain ⟨w', died, hu, hplayed⟩ := musicPlayed_of_no_Z hw.running (hw.mus_eq ▸ hz)
  have href : w.song.ref = ref m := by rw [hw.song_eq]
  have hstays : w'.song.ref = ref m := by
    rw [← href]
    exact hplayed.ref_stays (href ▸ hdead) (by rw [href, hw.mus_eq, hw.cfg_eq]; exact hlives)
  have hrender : s.zeroMix.renderVoices = .ok w' :=
    heq.trans (songTick_of_incomplete hw.mode_eq hu (hstays ▸ hdead))
  obtain ⟨hexec, hstuck, hsfx⟩ := exec_pull_of_renderVoices hrun hrender x
  refine ⟨_, hexec, hstuck, rfl, ?_, fun k => ?_, hsfx⟩
  · rw [publish_song, ← hstays, hplayed.song_eq, hw.song_eq]
  · rw [← hw.mus_eq, ← hw.cfg_eq]
    exact hplayed.played k

end Sys2Proof.Machine
end

section
/-! SUPPORT. The published word of a mix sum (45_voice_mixer.md R292, R294): rounding to binary32 keeps the order (00_scope.md R15), and
the soft clip is the hyperbolic tangent. -/

namespace Sys2Proof

/-! ## Rounding to an integer -/

theorem abs_roundHalfEven_sub_le (y : ℝ) : |(roundHalfEven y : ℝ) - y| ≤ 1 / 2 := by
  have hle := Int.floor_le y
  have hlt := Int.lt_floor_add_one y
  unfold roundHalfEven
  split
  · exact abs_le.mpr ⟨by linarith, by linarith⟩
  · split
    · push_cast
      exact abs_le.mpr ⟨by linarith, by linarith⟩
    · split
      · exact abs_le.mpr ⟨by linarith, by linarith⟩
      · push_cast
        exact abs_le.mpr ⟨by linarith, by linarith⟩

/-- An integer less than 1/2 away is the rounded one. -/
theorem roundHalfEven_eq {y : ℝ} {n : Int} (h : |(n : ℝ) - y| < 1 / 2) : roundHalfEven y = n := by
  obtain ⟨hlo, hhi⟩ := abs_lt.mp h
  obtain ⟨hlo', hhi'⟩ := abs_le.mp (abs_roundHalfEven_sub_le y)
  have h1 : roundHalfEven y < n + 1 := by exact_mod_cast (by linarith : (roundHalfEven y : ℝ) < (n : ℝ) + 1)
  have h2 : n < roundHalfEven y + 1 := by exact_mod_cast (by linarith : (n : ℝ) < (roundHalfEven y : ℝ) + 1)
  omega

@[simp] theorem roundHalfEven_intCast (n : Int) : roundHalfEven (n : ℝ) = n := roundHalfEven_eq (by simp)

/-- Rounding keeps the order: numbers that round to different integers the wrong way round would be equal. -/
theorem roundHalfEven_mono {x y : ℝ} (h : x ≤ y) : roundHalfEven x ≤ roundHalfEven y := by
  by_contra hlt
  have hgap : (roundHalfEven y : ℝ) + 1 ≤ (roundHalfEven x : ℝ) := by exact_mod_cast not_le.mp hlt
  obtain ⟨hlo, hhi⟩ := abs_le.mp (abs_roundHalfEven_sub_le x)
  obtain ⟨hlo', hhi'⟩ := abs_le.mp (abs_roundHalfEven_sub_le y)
  have heq : x = y := by linarith
  exact hlt (heq ▸ le_rfl)

theorem roundHalfEven_le {y : ℝ} {n : Int} (h : y ≤ n) : roundHalfEven y ≤ n :=
  roundHalfEven_intCast n ▸ roundHalfEven_mono h

theorem le_roundHalfEven {y : ℝ} {n : Int} (h : (n : ℝ) ≤ y) : n ≤ roundHalfEven y :=
  (roundHalfEven_intCast n).symm.trans_le (roundHalfEven_mono h)

/-! ## The binade and the significand (R15) -/

/-- `y` in units of the last place of its binade. -/
noncomputable def f32Units (y : ℝ) : ℝ := y / (2 : ℝ) ^ (f32Exponent y - 23)

/-- The exponent and fraction fields of the word nearest to `y`, before a carry to infinity is cut. -/
noncomputable def f32Fields (y : ℝ) : Int := (f32Exponent y + 126) * 2 ^ 23 + roundHalfEven (f32Units y)

theorem f32Magnitude_eq (y : ℝ) : f32Magnitude y = min (f32Fields y).toNat 0x7F800000 := rfl

section Binade
variable {x y : ℝ}

theorem f32Exponent_mono (hx : 0 < x) (h : x ≤ y) : f32Exponent x ≤ f32Exponent y :=
  max_le_max_right _ (Int.log_mono_right hx h)

/-- A power of 2 in units of the last place of the binade of exponent `e`. -/
theorem pow_mul_unit (e : Int) (k : Nat) : (2 : ℝ) ^ k * (2 : ℝ) ^ (e - 23) = (2 : ℝ) ^ (e - 23 + k) := by
  rw [zpow_add₀ two_ne_zero, zpow_natCast, mul_comm]

/-- A number lies below the next binade. -/
theorem f32Units_lt (y : ℝ) : f32Units y < 2 ^ 24 := by
  rw [f32Units, div_lt_iff₀ (zpow_pos two_pos _), pow_mul_unit]
  calc y < (2 : ℝ) ^ (Int.log 2 y + 1) := Int.lt_zpow_succ_log_self one_lt_two y
    _ ≤ (2 : ℝ) ^ (f32Exponent y - 23 + (24 : ℕ)) := zpow_le_zpow_right₀ one_le_two (by unfold f32Exponent; push_cast; omega)

/-- A normal number has its leading bit. -/
theorem le_f32Units (hy : 0 < y) (hn : -126 < f32Exponent y) : 2 ^ 23 ≤ f32Units y := by
  have he : f32Exponent y = Int.log 2 y := by unfold f32Exponent at *; omega
  rw [f32Units, le_div_iff₀ (zpow_pos two_pos _), pow_mul_unit, he]
  calc (2 : ℝ) ^ (Int.log 2 y - 23 + (23 : ℕ)) = (2 : ℝ) ^ Int.log 2 y := by congr 1; push_cast; omega
    _ ≤ y := Int.zpow_log_le_self one_lt_two hy

/-- The fields keep the order: within a binade the significand does, and a higher binade starts where the one below it ends. -/
theorem f32Fields_mono (hx : 0 < x) (h : x ≤ y) : f32Fields x ≤ f32Fields y := by
  unfold f32Fields
  obtain he | he := (f32Exponent_mono hx h).eq_or_lt
  · have hunits : f32Units x ≤ f32Units y := by
      rw [f32Units, f32Units, he]
      exact div_le_div_of_nonneg_right h (zpow_pos two_pos _).le
    rw [he]
    have := roundHalfEven_mono hunits
    omega
  · have hmin : -126 ≤ f32Exponent x := le_max_right _ _
    have hup : roundHalfEven (f32Units x) ≤ 2 ^ 24 := roundHalfEven_le (by exact_mod_cast (f32Units_lt x).le)
    have hlo : 2 ^ 23 ≤ roundHalfEven (f32Units y) :=
      le_roundHalfEven (by exact_mod_cast le_f32Units (hx.trans_le h) (by omega))
    omega

theorem f32Magnitude_mono (hx : 0 < x) (h : x ≤ y) : f32Magnitude x ≤ f32Magnitude y :=
  min_le_min_right _ (Int.toNat_le_toNat (f32Fields_mono hx h))

/-- The fields of a number of the binade of exponent `e` whose significand rounds to `m`. -/
theorem f32Fields_eq {e m : Int} (he : -126 ≤ e) (hlo : (2 : ℝ) ^ e ≤ y) (hhi : y < (2 : ℝ) ^ (e + 1))
    (hm : |(m : ℝ) - y / (2 : ℝ) ^ (e - 23)| < 1 / 2) : f32Fields y = (e + 126) * 2 ^ 23 + m := by
  have hpos : 0 < y := (zpow_pos two_pos e).trans_le hlo
  have hlog1 : e ≤ Int.log 2 y := (Int.zpow_le_iff_le_log one_lt_two hpos).mp (by exact_mod_cast hlo)
  have hlog2 : Int.log 2 y < e + 1 := (Int.lt_zpow_iff_log_lt one_lt_two hpos).mp (by exact_mod_cast hhi)
  have hexp : f32Exponent y = e := by unfold f32Exponent; omega
  rw [f32Fields, f32Units, hexp, roundHalfEven_eq hm]

theorem f32Magnitude_one : f32Magnitude 1 = 0x3F800000 := by
  rw [f32Magnitude_eq, f32Fields_eq (e := 0) (m := 2 ^ 23) (by norm_num) (by norm_num) (by norm_num) (by norm_num)]
  rfl

theorem f32Magnitude_le_one (hx : 0 < x) (h : x ≤ 1) : f32Magnitude x ≤ 0x3F800000 :=
  f32Magnitude_one ▸ f32Magnitude_mono hx h

/-! ## The word -/

theorem f32Magnitude_lt (y : ℝ) : f32Magnitude y < 2 ^ 31 := by
  have := min_le_right (f32Fields y).toNat 0x7F800000
  rw [f32Magnitude_eq]
  omega

@[simp] theorem toF32_zero : toF32 0 = 0#32 := if_pos rfl

theorem toNat_toF32_of_pos (h : 0 < x) : (toF32 x).toNat = f32Magnitude x := by
  have := f32Magnitude_lt x
  rw [toF32, if_neg h.ne', if_neg h.not_gt, BitVec.toNat_ofNat]
  omega

theorem toNat_toF32_of_neg (h : x < 0) : (toF32 x).toNat = 2 ^ 31 + f32Magnitude (-x) := by
  have := f32Magnitude_lt (-x)
  rw [toF32, if_neg h.ne, if_pos h, BitVec.toNat_ofNat]
  omega

/-- The sign bit is that of the number. -/
theorem toF32_sign : (toF32 x).getLsbD 31 = true ↔ x < 0 := by
  have hbit : (toF32 x).getLsbD 31 = true ↔ 2 ^ 31 ≤ (toF32 x).toNat := by
    rw [← BitVec.msb_eq_getLsbD_last, BitVec.msb_eq_decide, decide_eq_true_eq]
  rw [hbit]
  obtain h | rfl | h := lt_trichotomy x 0
  · simp [toNat_toF32_of_neg h, h]
  · simp
  · rw [toNat_toF32_of_pos h]
    exact iff_of_false (f32Magnitude_lt x).not_ge h.not_gt

theorem toF32_magnitude_le (h : |x| ≤ 1) : (toF32 x).toNat % 2 ^ 31 ≤ 0x3F800000 := by
  obtain ⟨hlo, hhi⟩ := abs_le.mp h
  obtain hneg | rfl | hpos := lt_trichotomy x 0
  · rw [toNat_toF32_of_neg hneg, Nat.add_mod_left]
    exact (Nat.mod_le _ _).trans (f32Magnitude_le_one (by linarith) (by linarith))
  · simp
  · rw [toNat_toF32_of_pos hpos]
    exact (Nat.mod_le _ _).trans (f32Magnitude_le_one hpos hhi)

theorem toF32_mono_of_nonneg (hx : 0 ≤ x) (h : x ≤ y) : (toF32 x).toNat ≤ (toF32 y).toNat := by
  obtain rfl | hx := hx.eq_or_lt
  · simp
  · rw [toNat_toF32_of_pos hx, toNat_toF32_of_pos (hx.trans_le h)]
    exact f32Magnitude_mono hx h

theorem toF32_anti_of_neg (h : x ≤ y) (hy : y < 0) : (toF32 y).toNat ≤ (toF32 x).toNat := by
  rw [toNat_toF32_of_neg hy, toNat_toF32_of_neg (h.trans_lt hy)]
  exact Nat.add_le_add_left (f32Magnitude_mono (by linarith) (by linarith)) _

end Binade

/-! ## The hyperbolic tangent -/

theorem tanh_le_tanh_iff {x y : ℝ} : Real.tanh x ≤ Real.tanh y ↔ x ≤ y := by
  have hrange : ∀ z : ℝ, Real.tanh z ∈ Set.Ioo (-1) 1 := fun z => ⟨Real.neg_one_lt_tanh z, Real.tanh_lt_one z⟩
  rw [← Real.artanh_le_artanh_iff (hrange x) (hrange y), Real.artanh_tanh, Real.artanh_tanh]

theorem tanh_nonneg_iff {x : ℝ} : 0 ≤ Real.tanh x ↔ 0 ≤ x := by
  simpa using tanh_le_tanh_iff (x := 0) (y := x)

theorem tanh_neg_iff {x : ℝ} : Real.tanh x < 0 ↔ x < 0 := by
  rw [← not_le, ← not_le, tanh_nonneg_iff]

/-- tanh(1/2) = 1 − 2/(e + 1), from the digits of e. -/
theorem tanh_half_mem : Real.tanh (1 / 2) ∈ Set.Ioo (0.462117157 : ℝ) 0.462117158 := by
  have hsq : Real.exp (1 / 2) * Real.exp (1 / 2) = Real.exp 1 := by rw [← Real.exp_add]; norm_num
  have hpos : 0 < Real.exp (1 / 2) := Real.exp_pos _
  have hlo := Real.exp_one_gt_d9
  have hhi := Real.exp_one_lt_d9
  have heq : Real.tanh (1 / 2) = (Real.exp 1 - 1) / (Real.exp 1 + 1) := by
    rw [Real.tanh_eq, Real.exp_neg, ← hsq]
    field_simp
  rw [heq]
  constructor
  · rw [lt_div_iff₀ (by linarith)]
    linarith
  · rw [div_lt_iff₀ (by linarith)]
    linarith

/-- The worked example of R294. -/
theorem toF32_tanh_half : toF32 (Real.tanh (1 / 2)) = 0x3EEC9A9F#32 := by
  obtain ⟨hlo, hhi⟩ := tanh_half_mem
  refine BitVec.eq_of_toNat_eq ?_
  rw [toNat_toF32_of_pos (by linarith), f32Magnitude_eq, f32Fields_eq (e := -2) (m := 0xEC9A9F) (by norm_num)
    (by norm_num; linarith) (by norm_num; linarith) (abs_lt.mpr ⟨by norm_num; linarith, by norm_num; linarith⟩)]
  rfl

/-- Settles O57: tanh keeps the sign and the order and stays in (−1, 1), and rounding to binary32 keeps all three. -/
theorem softClip : Obligations.SoftClip := by
  intro d
  refine ⟨fun x => toF32_magnitude_le (Real.abs_tanh_lt_one _).le, fun x => toF32_sign.trans tanh_neg_iff,
    fun x y hx h => toF32_mono_of_nonneg (tanh_nonneg_iff.mpr hx) (tanh_le_tanh_iff.mpr h),
    fun x y h hy => toF32_anti_of_neg (tanh_le_tanh_iff.mpr h) (tanh_neg_iff.mpr hy), ?_, ?_⟩
  · simp [Machine.Sample.f32]
  · rw [Machine.Sample.f32, val_rat]
    push_cast
    exact toF32_tanh_half

end Sys2Proof
end

section
/-! SUPPORT. The commands for the one-shot slots (45_voice_mixer.md R272–R277): the slots each one leaves, and that no instrument
comes to be held by two of them. -/

namespace Sys2Proof.Machine

section OneShot
variable {s t : State}

/-- A state that differs in its one-shot slots at most, by what each of them holds. -/
theorem eq_with_sfx {slots : Fin 4 → Option Voice} (hframe : t = { s with sfx := t.sfx }) (h : ∀ k : Fin 4, t.sfx[k] = slots k) :
    t = { s with sfx := Vector.ofFn slots } := by
  have hsfx : t.sfx = Vector.ofFn slots := Vector.ext fun k hk => by simpa using h ⟨k, hk⟩
  rw [hframe, hsfx]

/-- The one-shot slots after one of them was written. -/
theorem sfx_setVoice (s : State) (j k : Fin 4) (o : Option Voice) :
    (s.setVoice (.sfx j) o).sfx[k] = if j = k then o else s.sfx[k] := by
  simpa using voice_setVoice s (.sfx j) (.sfx k) o

/-- An operand that names slot `j` is the number of slot `k` exactly when they are one slot. -/
theorem eq_slot_iff {ch : Int} {j : Fin 4} (h : slotOf ch = some j) (k : Fin 4) : ch = (k.val : Int) ↔ j = k := by
  rw [← slotOf_eq_some, h, Option.some.injEq]

/-- An operand that names no slot is the number of none. -/
theorem ne_slot {ch : Int} (h : slotOf ch = none) (k : Fin 4) : ch ≠ (k.val : Int) := fun he => by
  cases h.symm.trans (slotOf_eq_some.mpr he)

end OneShot

/-- Settles O10, by what the operand names: every slot, one slot, or none. -/
theorem sfxStop : Obligations.SfxStop := by
  intro ch x s
  simp only [exec, execSfxStop]
  split
  · next hall => exact congrArg _ (eq_with_sfx rfl fun k => by simp [hall])
  · next hall =>
    split
    · next j hj => exact congrArg _ (eq_with_sfx rfl fun k => by simp only [sfx_setVoice, hall, eq_slot_iff hj, false_or])
    · next hnone => exact congrArg _ (eq_with_sfx rfl fun k => by simp only [hall, ne_slot hnone, or_self, if_false])

/-- Settles O11, by what the operand names: no slot, one with a voice, or an empty one. -/
theorem sfxRelease : Obligations.SfxRelease := by
  intro ch x s
  simp only [exec, execSfxRelease]
  split
  · next hnone => exact congrArg _ (eq_with_sfx rfl fun k => by simp only [ne_slot hnone, if_false])
  · next j hj =>
    split
    · next v hv =>
      refine congrArg _ (eq_with_sfx rfl fun k => ?_)
      rw [sfx_setVoice]
      simp only [eq_slot_iff hj]
      split
      · next he => rw [← he, hv]; rfl
      · rfl
    · next hempty =>
      refine congrArg _ (eq_with_sfx rfl fun k => ?_)
      simp only [eq_slot_iff hj]
      split
      · next he => rw [← he, hempty]; rfl
      · rfl

/-! ## SFX_PLAY (R276) -/

section Play
variable {s t : State} {n : Fin 64} {ch off len : Int} {kept : Vector (Option Voice) 4}

theorem exec_sfxPlay (h : validChannel ch = true) : exec (.sfxPlay (n.val : Int) ch off len) s = .next (s.sfxPlay n ch off len) := by
  simp [exec, execSfxPlay, h]

/-- SFX_PLAY to a channel that resolves to no slot is its stop-first step. -/
theorem sfxPlay_of_no_slot (h : (s.stopInstrument n).resolveChannel ch = none) : s.sfxPlay n ch off len = s.stopInstrument n := by
  simp only [State.sfxPlay, h]

/-- SFX_PLAY to a channel that resolves to slot `k` puts a fresh voice there. -/
theorem sfxPlay_of_slot {k : Fin 4} (h : (s.stopInstrument n).resolveChannel ch = some k) :
    s.sfxPlay n ch off len = (s.stopInstrument n).setVoice (.sfx k) (some (s.startVoice n off len 0)) := by
  simp only [State.sfxPlay, h]
  rfl

/-- A channel resolves to slot `k` when it is its number, or −1 with `k` the least free slot. -/
theorem resolveChannel_eq_some {k : Fin 4}
    (h : ch = (k.val : Int) ∨ (ch = -1 ∧ s.sfx[k] = none ∧ ∀ j : Fin 4, j < k → s.sfx[j] ≠ none)) :
    s.resolveChannel ch = some k := by
  unfold State.resolveChannel
  obtain hk | ⟨rfl, hfree⟩ := h
  · rw [if_neg (by omega), if_neg (by omega), slotOf_eq_some.mpr hk]
  · exact firstFree_eq_some.mpr hfree

theorem stopInstrument_eq (h : ∀ k : Fin 4, kept[k] = exceptInstrument n s.sfx[k]) : s.stopInstrument n = { s with sfx := kept } := by
  have hkept : kept = (s.stopInstrument n).sfx := Vector.ext fun k hk => by
    rw [stopInstrument_sfx, Vector.getElem_ofFn]
    exact h ⟨k, hk⟩
  rw [hkept]
  rfl

/-- The stop-first step changes nothing when it frees no slot. -/
theorem stopInstrument_of_full (h : ∀ k : Fin 4, (s.stopInstrument n).sfx[k] ≠ none) : s.stopInstrument n = s := by
  have hsfx : (s.stopInstrument n).sfx = s.sfx := Vector.ext fun k hk => by
    obtain ⟨v, hv⟩ := Option.ne_none_iff_exists'.mp (h ⟨k, hk⟩)
    exact hv.trans (sfx_stopInstrument.mp hv).1.symm
  rw [show s.stopInstrument n = { s with sfx := (s.stopInstrument n).sfx } from rfl, hsfx]

end Play

/-- Settles O12: the stop-first step leaves `kept`, and the channel resolves against it. -/
theorem sfxPlay : Obligations.SfxPlay := by
  intro n ch off len s kept hkept
  have hstop : s.stopInstrument n = { s with sfx := kept } := stopInstrument_eq hkept
  refine ⟨?_, ?_, fun k hk => ⟨s.startVoice n off len 0, isFreshVoice_startVoice s n off len 0, ?_⟩⟩
  · rintro rfl
    rw [exec_sfxPlay rfl, sfxPlay_of_no_slot rfl, hstop]
  · rintro rfl hfull
    have hslots : ∀ k : Fin 4, (s.stopInstrument n).sfx[k] ≠ none := hstop ▸ hfull
    have hnone : (s.stopInstrument n).resolveChannel (-1) = none := firstFree_eq_none.mpr hslots
    rw [exec_sfxPlay rfl, sfxPlay_of_no_slot hnone, stopInstrument_of_full hslots]
  · have hvalid : validChannel ch = true := validChannel_iff.mpr (by omega)
    rw [exec_sfxPlay hvalid, sfxPlay_of_slot (k := k) (hstop ▸ resolveChannel_eq_some hk), hstop]
    rfl

/-! ## Exclusivity (R277) -/

section Exclusive
variable {s t : State}

theorem exclusive_of_sfx_eq (hx : s.Exclusive) (h : t.sfx = s.sfx) : t.Exclusive :=
  exclusive_of_sameInstr hx fun _ v hv => ⟨v, h ▸ hv, rfl⟩

theorem exclusive_emptySlot (hx : s.Exclusive) (k : Fin 4) : (s.setVoice (.sfx k) none).Exclusive :=
  exclusive_of_sameInstr hx fun j v hv => by
    rw [sfx_setVoice] at hv
    split at hv
    · cases hv
    · exact ⟨v, hv, rfl⟩

theorem exclusive_release (hx : s.Exclusive) {k : Fin 4} {v : Voice} (hv : s.sfx[k] = some v) :
    (s.setVoice (.sfx k) (some v.release)).Exclusive :=
  exclusive_of_sameInstr hx fun j w hw => by
    rw [sfx_setVoice] at hw
    split at hw
    · next he =>
      cases hw
      exact ⟨v, he ▸ hv, rfl⟩
    · exact ⟨w, hw, rfl⟩

theorem exclusive_stopInstrument (hx : s.Exclusive) (n : Fin 64) : (s.stopInstrument n).Exclusive :=
  exclusive_of_sameInstr hx fun _ v hv => ⟨v, (sfx_stopInstrument.mp hv).1, rfl⟩

/-- A slot may be filled with a voice of an instrument that no one-shot slot holds. -/
theorem exclusive_fill (hx : s.Exclusive) (k : Fin 4) {v : Voice}
    (hfree : ∀ (j : Fin 4) w, s.sfx[j] = some w → w.instrIdx ≠ v.instrIdx) :
    (s.setVoice (.sfx k) (some v)).Exclusive := by
  intro i j u w hu hw he
  rw [sfx_setVoice] at hu hw
  split at hu <;> split at hw
  · next hi hj => exact hi.symm.trans hj
  · cases hu
    exact absurd he.symm (hfree j w hw)
  · cases hw
    exact absurd he (hfree i u hu)
  · exact hx i j u w hu hw he

theorem exclusive_sfxPlay (hx : s.Exclusive) (n : Fin 64) (ch off len : Int) : (s.sfxPlay n ch off len).Exclusive := by
  obtain he | ⟨k, he⟩ := sfxPlay_cases s n ch off len
  · exact he ▸ exclusive_stopInstrument hx n
  · exact he ▸ exclusive_fill (exclusive_stopInstrument hx n) k fun j w hw => (sfx_stopInstrument.mp hw).2

theorem Ran.selector_sfx (h : Ran s .selector t) : t.sfx = s.sfx := by
  rw [h.selector_frame]

/-- A run fills a slot after the stop-first step only; every other run empties slots or keeps their instruments. -/
theorem Ran.exclusive {k : Kind} (h : Ran s k t) (hx : s.Exclusive) : t.Exclusive := by
  cases h with
  | nothing => exact hx
  | stoppedAll => exact fun j k v w hv => by simp at hv
  | stopped k => exact exclusive_emptySlot hx k
  | released k v hv => exact exclusive_release hx hv
  | played n ch off len => exact exclusive_sfxPlay hx n ch off len
  | started n => exact exclusive_of_sfx_eq hx rfl
  | published u hu =>
    refine exclusive_of_sameInstr hx fun k v hv => ?_
    obtain ⟨w, hw, hsame⟩ := renderVoices_sameIdentity hu k v hv
    exact ⟨w, hw, hsame.instrIdx_eq⟩
  | gotStuck r => exact exclusive_of_sfx_eq hx rfl
  | scheduled p => exact exclusive_of_sfx_eq hx (Ran.scheduled p).selector_sfx
  | rendered w => exact exclusive_of_sfx_eq hx (Ran.rendered w).selector_sfx

end Exclusive

/-- Settles O13: an instruction is one of the runs. -/
theorem sfxExclusive : Obligations.SfxExclusive :=
  fun _ _ _ hx h => (ran_of_exec h).exclusive hx

end Sys2Proof.Machine
end

section
/-! SUPPORT. What a PULL publishes from every state (45_voice_mixer.md R290–R293): the mix that its voices' updates leave on a buffer of
zeros. -/

namespace Sys2Proof.Machine

/-! ## What the passes of an update keep (43_step_sequencer.md R219) -/

section Keeps
variable {cfg : Cfg} {P : Voice → List Exact → Nat → Prop} {v v' : Voice} {mix mix' : List Exact} {d d' : Nat}
  (hsched : ∀ v mix d k, P v mix d → P (v.schedule cfg.lit k) mix d)
  (hrun : ∀ v mix d t b v' mix' d', P v mix d → v.task = some t → v.runTask cfg t mix d = (b, v', mix', d') → P v' mix' d')
include hsched hrun

/-- What the two kinds of pass of an update keep holds of the mix and the draws it leaves, with some voice. -/
theorem updateLoop_keeps (fuel : Nat) (hP : P v mix d)
    (h : updateLoop cfg fuel v mix d = .alive v' mix' d' ∨ updateLoop cfg fuel v mix d = .died v' mix' d') :
    ∃ w, P w mix' d' := by
  induction fuel generalizing v mix d with
  | zero => obtain h | h := h <;> cases h
  | succ fuel ih =>
    by_cases hc : v.cursor < cfg.B
    · rcases ht : v.task with _ | t
      · rcases hk : v.playable with _ | k
        · rw [updateLoop_of_exhausted hc ht hk] at h
          obtain h | h := h <;> cases h
          exact ⟨_, hP⟩
        · rw [updateLoop_of_playable hc ht hk] at h
          exact ih (hsched v mix d k hP) h
      · rcases hr : v.runTask cfg t mix d with ⟨_ | _, w, mix1, d1⟩
        · rw [updateLoop_of_queued hc ht hr] at h
          obtain h | h := h <;> cases h
          exact ⟨_, hrun v mix d t _ _ _ _ hP ht hr⟩
        · rw [updateLoop_of_popped hc ht hr] at h
          exact ih (hrun v mix d t _ _ _ _ hP ht hr) h
    · rw [updateLoop_of_full hc] at h
      obtain h | h := h <;> cases h
      exact ⟨_, hP⟩

/-- What the passes of an update keep, an update that ends keeps. -/
theorem updateVoice_keeps (hP : P v mix d)
    (h : updateVoice cfg v mix d = .alive v' mix' d' ∨ updateVoice cfg v mix d = .died v' mix' d') : ∃ w, P w mix' d' := by
  have hends : updateVoice cfg v mix d ≠ .endless := by
    obtain h | h := h <;> simp [h]
  rw [updateVoice_eq_updateLoop hends] at h
  exact updateLoop_keeps hsched hrun _ hP h

end Keeps

/-- A pass with a task leaves the mix and the draws of its process operation; the voice keeps its instrument, and has no task or the
processed one. -/
theorem runTask_eq {v v' : Voice} {cfg : Cfg} {t : RenderTask} {mix mix' : List Exact} {d d' : Nat} {b : Bool}
    (h : v.runTask cfg t mix d = (b, v', mix', d')) :
    mix' = (processTask cfg v.active v.cursor mix t v.osc d).mix ∧ d' = (processTask cfg v.active v.cursor mix t v.osc d).draws ∧
      v'.instr = v.instr ∧ ∀ t', v'.task = some t' → t' = (processTask cfg v.active v.cursor mix t v.osc d).task := by
  cases b with
  | true =>
    obtain ⟨-, rfl, hmix, hd⟩ := runTask_true h
    exact ⟨hmix, hd, rfl, nofun⟩
  | false =>
    obtain ⟨-, rfl, hmix, hd⟩ := runTask_false h
    exact ⟨hmix, hd, rfl, fun t' ht' => (Option.some.inj ht').symm⟩

/-! ## The draws are never undone (41_waveform_oscillator.md R153) -/

theorem le_drawNoise_draws (rng : Option (BitVec 32)) (d : Nat) : d ≤ (drawNoise rng d).draws := by
  cases rng with
  | none => exact Nat.le_succ d
  | some x => exact le_rfl

theorem le_oscStep_draws (w : Waveform) (cfg : Cfg) (f : Exact) (o : OscState) (d : Nat) : d ≤ (oscStep w cfg f o d).draws := by
  cases w
  case noise => exact le_drawNoise_draws o.rng d
  all_goals exact le_rfl

theorem le_renderSample_draws (w : Waveform) (cfg : Cfg) (active : Bool) (task : RenderTask) (o : OscState) (d : Nat) (m : Exact) :
    d ≤ (renderSample (oscStep w) cfg active task o d m).draws := by
  unfold renderSample
  split
  · exact le_oscStep_draws ..
  · exact le_rfl

theorem le_renderFrom_draws (cfg : Cfg) (active : Bool) (mix : List Exact) (task : RenderTask) (o : OscState) (d : Nat) :
    d ≤ (renderFrom cfg active mix task o d).draws := by
  induction mix generalizing task o d with
  | nil => exact le_rfl
  | cons m rest ih =>
    rcases hc : task.complete cfg
    · rw [renderFrom_cons hc]
      exact (le_renderSample_draws ..).trans (ih ..)
    · rw [renderFrom_of_complete hc]

/-- An update keeps the length of the buffer and undoes no draw. -/
theorem updateVoice_grows {cfg : Cfg} {v v' : Voice} {mix mix' : List Exact} {d d' : Nat}
    (h : updateVoice cfg v mix d = .alive v' mix' d' ∨ updateVoice cfg v mix d = .died v' mix' d') :
    mix'.length = mix.length ∧ d ≤ d' := by
  obtain ⟨-, hgrown⟩ := updateVoice_keeps (P := fun _ mix1 d1 => mix1.length = mix.length ∧ d ≤ d1) (fun _ _ _ _ hP => hP)
    (fun v mix1 d1 t b v2 mix2 d2 hP _ hr => by
      obtain ⟨hl, hd⟩ := hP
      obtain ⟨rfl, rfl, -⟩ := runTask_eq hr
      exact ⟨by rw [processTask_length, hl], hd.trans (le_renderFrom_draws ..)⟩)
    ⟨rfl, le_rfl⟩ h
  exact hgrown

/-! ## What the rendering of a PULL leaves alone -/

/-- `t` is `s` after some rendering: the buffer has its length, no draw is undone, and only slots and song are written besides. -/
structure State.RenderedTo (s t : State) : Prop where
  cfg_eq : t.cfg = s.cfg
  tables_eq : t.tables = s.tables
  fault_eq : t.fault = s.fault
  stuck_eq : t.stuck = s.stuck
  stream_eq : t.stream = s.stream
  bench_eq : t.bench = s.bench
  mix_length : t.mix.length = s.mix.length
  draws_le : s.draws ≤ t.draws

section Rendered
variable {s t u : State}

theorem updateSlot_grows {slot : SlotId} (h : s.updateSlot slot = .ok t) : t.mix.length = s.mix.length ∧ s.draws ≤ t.draws := by
  obtain ⟨-, rfl⟩ | ⟨v, v', mix, d, -, hu, rfl⟩ | ⟨v, v', mix, d, -, hu, rfl⟩ := updateSlot_ok h
  · exact ⟨rfl, le_rfl⟩
  · simpa using updateVoice_grows (.inl hu)
  · simpa using updateVoice_grows (.inr hu)

theorem State.RenderedTo.trans (h : s.RenderedTo u) (h' : u.RenderedTo t) : s.RenderedTo t :=
  ⟨h'.cfg_eq.trans h.cfg_eq, h'.tables_eq.trans h.tables_eq, h'.fault_eq.trans h.fault_eq, h'.stuck_eq.trans h.stuck_eq,
    h'.stream_eq.trans h.stream_eq, h'.bench_eq.trans h.bench_eq, h'.mix_length.trans h.mix_length, h.draws_le.trans h'.draws_le⟩

theorem renderedTo_of_updateSlot {slot : SlotId} (h : s.updateSlot slot = .ok t) : s.RenderedTo t := by
  obtain ⟨hcfg, -, hfault, hstuck, htables, hstream, hbench, -⟩ := updateSlot_frame h
  obtain ⟨hlen, hdraws⟩ := updateSlot_grows h
  exact ⟨hcfg, htables, hfault, hstuck, hstream, hbench, hlen, hdraws⟩

theorem renderedTo_enterStopped (s : State) : s.RenderedTo s.enterStopped := ⟨rfl, rfl, rfl, rfl, rfl, rfl, rfl, le_rfl⟩

theorem renderedTo_moveTo (s : State) (p : Fin 64) : s.RenderedTo (s.moveTo p) := ⟨rfl, rfl, rfl, rfl, rfl, rfl, rfl, le_rfl⟩

theorem renderedTo_of_renderVoices (h : s.renderVoices = .ok t) : s.RenderedTo t :=
  renderVoices_keeps s.RenderedTo (fun _ _ _ hP hu => hP.trans (renderedTo_of_updateSlot hu))
    (fun u _ hP _ => hP.trans (renderedTo_enterStopped u)) (fun u _ p hP _ _ => hP.trans (renderedTo_moveTo u p))
    ⟨rfl, rfl, rfl, rfl, rfl, rfl, rfl, le_rfl⟩ h

/-- A PULL that completes is a run of its slots and its song (R290–R292). -/
theorem pullRun_of_renderVoices (h : s.zeroMix.renderVoices = .ok t) : PullRun s t.publish := by
  obtain ⟨u, hu, htick⟩ := renderVoices_ok.mp h
  obtain ⟨died, hslots, hsong⟩ := slotsRun_sfx hu
  obtain ⟨hcfg, htables⟩ := updateSlots_tables hu
  have hsfx : t.sfx = u.sfx := Vector.ext fun k hk => songTick_sfx htick ⟨k, hk⟩
  have hrun : SongRun s u.song u.mus u.rendering t.song t.mus t.rendering := songRun_of_songTick hcfg htables htick
  rw [hsong, updateSlots_sfx_mus hu] at hrun
  exact ⟨u.rendering, died, hsfx ▸ hslots, hrun, rfl⟩

end Rendered

/-- Settles O19: a PULL publishes its rendering, or records why there is none. -/
theorem pullResult : Obligations.PullResult := by
  intro x s
  obtain ⟨t, ht, he⟩ | ⟨r, -, he⟩ := execPull_cases x s
  · have hr := renderedTo_of_renderVoices ht
    exact ⟨t.publish, he, .inl ⟨hr.stuck_eq, hr.mix_length.trans List.length_replicate, rfl, pullRun_of_renderVoices ht⟩,
      hr.cfg_eq, hr.tables_eq, hr.fault_eq, hr.stream_eq, hr.bench_eq, hr.draws_le⟩
  · exact ⟨s.getStuck r, he, .inr ⟨r, rfl⟩, rfl, rfl, rfl, rfl, rfl, le_rfl⟩

end Sys2Proof.Machine
end

section
/-! SUPPORT. Silence (45_voice_mixer.md R295): the update of a silent voice adds nothing, so a PULL of silent voices leaves its buffer of
zeros as it is, along a chain of silent patterns too. -/

namespace Sys2Proof.Machine

/-! ## Silent tasks and voices (42_envelope_renderer.md R176, R186) -/

section Task
variable {cfg : Cfg} {active : Bool} {task : RenderTask}

theorem volumeAt_of_silent (h : task.vol = 0) (lit : Literals) (t : Rat) : task.volumeAt lit t = 0 := by
  simp [RenderTask.volumeAt, h]

theorem renderSample_mixed_of_silent (h : task.vol = 0) (step : OscFn) (o : OscState) (d : Nat) (m : Exact) :
    (renderSample step cfg active task o d m).mixed = m := by
  cases active <;> simp [renderSample, volumeAt_of_silent h]

theorem renderFrom_mix_of_silent (h : task.vol = 0) (mix : List Exact) (o : OscState) (d : Nat) :
    (renderFrom cfg active mix task o d).mix = mix := by
  induction mix generalizing task o d with
  | nil => rfl
  | cons m rest ih =>
    rcases hc : task.complete cfg
    · rw [renderFrom_cons hc]
      simp only [renderSample_mixed_of_silent h, ih (task := task.tick) h]
    · rw [renderFrom_of_complete hc]

theorem processTask_mix_of_silent (h : task.vol = 0) (cursor : Nat) (mix : List Exact) (o : OscState) (d : Nat) :
    (processTask cfg active cursor mix task o d).mix = mix := by
  rw [processTask]
  simp only [renderFrom_mix_of_silent h, List.take_append_drop]

end Task

section Voice
variable {cfg : Cfg} {v v' : Voice} {mix mix' : List Exact} {d d' : Nat}

/-- Scheduling a note of volume 0 queues a silent task (43_step_sequencer.md R203). -/
theorem silent_schedule (lit : Literals) (k : Fin 32) (h : v.Silent) : (v.schedule lit k).Silent := by
  obtain ⟨-, hnotes⟩ := h
  obtain ⟨pol, pend, he, -⟩ := scheduleNote_is lit v k v.instr.notes[k]
  refine ⟨fun t ht => ?_, fun j => by rw [schedule_instr]; exact hnotes j⟩
  rw [Voice.schedule, he, scheduleAs_task] at ht
  cases ht
  have hvolume : v.instr.notes[k].fields.volume = 0 := hnotes k
  simp only [Voice.taskOf, hvolume]
  norm_num

/-- A pass of a silent voice leaves it silent, and the buffer as it was. -/
theorem silent_runTask {b : Bool} {t : RenderTask} (h : v.Silent) (ht : v.task = some t)
    (hr : v.runTask cfg t mix d = (b, v', mix', d')) : v'.Silent ∧ mix' = mix := by
  obtain ⟨htask, hnotes⟩ := h
  obtain ⟨hmix, -, hinstr, htask'⟩ := runTask_eq hr
  refine ⟨⟨fun t' ht' => ?_, fun k => by rw [hinstr]; exact hnotes k⟩, by rw [hmix, processTask_mix_of_silent (htask t ht)]⟩
  rw [htask' t' ht', processTask_task]
  exact htask t ht

/-- The update of a silent voice leaves the buffer as it was. -/
theorem updateVoice_mix_of_silent (hv : v.Silent)
    (h : updateVoice cfg v mix d = .alive v' mix' d' ∨ updateVoice cfg v mix d = .died v' mix' d') : mix' = mix := by
  obtain ⟨-, -, hmix⟩ := updateVoice_keeps (P := fun w mix1 _ => w.Silent ∧ mix1 = mix)
    (fun _ _ _ k hP => ⟨silent_schedule cfg.lit k hP.1, hP.2⟩)
    (fun w mix1 d1 t b w' mix2 d2 hP ht hr => by
      obtain ⟨hw, rfl⟩ := hP
      exact silent_runTask hw ht hr)
    ⟨hv, rfl⟩ h
  exact hmix

theorem slotRun_mix_of_silent {slot slot' : Option Voice} {x x' : Rendering} {died : Option Nat} (hs : ∀ v, slot = some v → v.Silent)
    (h : SlotRun cfg slot x slot' x' died) : x'.mix = x.mix := by
  rcases slot with _ | v
  · obtain ⟨-, rfl, -⟩ := h
    rfl
  · obtain ⟨v', hu, -⟩ | ⟨v', hu, -⟩ := h
    · exact updateVoice_mix_of_silent (hs v rfl) (.inl hu)
    · exact updateVoice_mix_of_silent (hs v rfl) (.inr hu)

theorem slotsRun_mix_of_silent {slots slots' : Vector (Option Voice) 4} {x x' : Rendering} {died : Fin 4 → Option Nat}
    (hs : ∀ (k : Fin 4) v, slots[k] = some v → v.Silent) (h : SlotsRun cfg slots x slots' x' died) : x'.mix = x.mix := by
  obtain ⟨x1, x2, x3, h0, h1, h2, h3⟩ := h
  calc x'.mix = x3.mix := slotRun_mix_of_silent (hs 3) h3
    _ = x2.mix := slotRun_mix_of_silent (hs 2) h2
    _ = x1.mix := slotRun_mix_of_silent (hs 1) h1
    _ = x.mix := slotRun_mix_of_silent (hs 0) h0

end Voice

/-! ## A PULL with no voice -/

section Empty
variable {s : State}

theorem updateSlots_of_empty (h : ∀ slot, s.voice slot = none) (slots : List SlotId) : s.updateSlots slots = .ok s := by
  induction slots with
  | nil => rfl
  | cons slot rest ih => exact updateSlots_cons_ok.mpr ⟨s, by simp only [State.updateSlot, h slot], ih⟩

/-- With no voice and nothing to play the rendering of a PULL does nothing. -/
theorem renderVoices_of_empty (h : ∀ slot, s.voice slot = none) (hsong : s.song.mode = .stopped ∨ s.song.ref = .none) :
    s.renderVoices = .ok s := by
  refine renderVoices_ok.mpr ⟨s, updateSlots_of_empty h _, ?_⟩
  rcases hm : s.song.mode with _ | _
  · exact songTick_stopped hm
  · have href : s.song.ref = .none := hsong.resolve_left (by simp [hm])
    exact songTick_of_incomplete hm (updateSlots_of_empty h _) (by simp [href])

end Empty

/-! ## A PULL of silent voices -/

section Silent
variable {s t : State}

/-- A PULL whose rendering ends in a buffer of zeros publishes +0.0 everywhere. -/
theorem exec_pull_of_zeros (h : s.zeroMix.renderVoices = .ok t) (hmix : t.mix = s.zeroMix.mix) (x : BitVec 28) :
    ∃ t, exec (.pull x) s = .next t ∧ t.stuck = s.stuck ∧ t.out.length = s.cfg.B ∧ ∀ y ∈ t.out, ∀ d, y.f32 d = 0#32 := by
  obtain ⟨-, hstuck⟩ := renderVoices_cfg_stuck h
  have hout : t.publish.out = List.replicate s.cfg.B { softClipOf := .rat 0 } := by
    rw [publish_out, hmix, zeroMix_mix, List.map_replicate]
  refine ⟨t.publish, by simp only [exec, execPull, h], hstuck, by rw [hout, List.length_replicate], fun y hy d => ?_⟩
  obtain rfl := List.eq_of_mem_replicate (hout ▸ hy)
  simp [Sample.f32]

/-- With the song stopped, the rendering of silent one-shot voices ends and leaves the buffer as it was. -/
theorem renderVoices_of_silent_sfx (hs : s.Running) (hm : s.song.mode = .stopped)
    (hsilent : ∀ (k : Fin 4) v, s.sfx[k] = some v → v.Silent ∧ ¬ v.Z) : ∃ t, s.renderVoices = .ok t ∧ t.mix = s.mix := by
  obtain ⟨u, hu⟩ := updateSlots_ok_of_no_Z (slots := sfxSlots) (by decide) hs fun slot hmem => by
    cases slot with
    | sfx k => exact fun v hv => (hsilent k v hv).2
    | mus k => simp [sfxSlots] at hmem
  obtain ⟨died, hrun, hsong⟩ := slotsRun_sfx hu
  exact ⟨u, renderVoices_ok.mpr ⟨u, hu, songTick_stopped (hsong ▸ hm)⟩,
    slotsRun_mix_of_silent (fun k v hv => (hsilent k v hv).1) hrun⟩

end Silent

/-! ## Along a chain of silent patterns (44_pattern_sequencer.md R246–R250) -/

section Chain
variable {s : State} {m : Nat} {p : Nat → Fin 64} {c : Nat → Nat} {mus : Nat → Vector (Option Voice) 4} {ref : Nat → RefVoice}

/-- The last pattern of a chain ends the PULL: its reference voice outlives the buffer, or no pattern follows it. -/
structure ChainEnds (s : State) (m : Nat) (p : Nat → Fin 64) (mus : Nat → Vector (Option Voice) 4) (ref : Nat → RefVoice) : Prop where
  not_dead : ∀ dead, ref m ≠ .dead dead
  plays_on_or_stops : (∀ (j : Fin 4) (v : Voice), ref m = .live j → (mus m)[j] = some v → ∀ stop, ¬ v.EndsAt s.cfg stop) ∨
    s.nextAt m (p m) = none

/-- The voices of every pattern of a chain are in range. -/
theorem State.Chain.voicesOk (hch : s.Chain m p c mus ref) (hs : s.Running) {i : Nat} (hi : i ≤ m) (k : Fin 4) (v : Voice)
    (hv : (mus i)[k] = some v) : v.Ok s.cfg := by
  cases i with
  | zero =>
    obtain ⟨-, hmus, -⟩ := hch.start
    rw [hmus] at hv
    exact hs.voices_ok (.mus k) v hv
  | succ i =>
    obtain ⟨hset, -⟩ := hch.set_up i hi
    obtain ⟨-, -, -, -, -, -, hlt⟩ := hch.ends i hi
    rw [hset.eq_ofFn] at hv
    obtain ⟨n, rfl⟩ := patternVoice_eq_some (s := s) (r := s.decodePattern (p (i + 1))) (c := c (i + 1)) (k := k) (by simpa using hv)
    exact voiceOk_startVoice s n 0 _ hlt

/-- The rendering of a PULL along a chain that ends the PULL ends. -/
theorem State.Chain.renders (hch : s.Chain m p c mus ref) (hs : s.PlaysSong) (hz : ∀ (k : Fin 4) v, (mus m)[k] = some v → ¬ v.Z)
    (hend : ChainEnds s m p mus ref) : ∃ t, s.zeroMix.renderVoices = .ok t := by
  obtain ⟨w, hw, heq⟩ := hch.renderVoices_eq hs
  obtain ⟨w', died, hu, hplayed⟩ := musicPlayed_of_no_Z hw.running (hw.mus_eq ▸ hz)
  have href : w.song.ref = ref m := by rw [hw.song_eq]
  rw [heq]
  by_cases hdead : ∃ stop, w'.song.ref = .dead stop
  · obtain ⟨stop, hstop⟩ := hdead
    obtain hlives | hnext := hend.plays_on_or_stops
    · have hstays : w'.song.ref = w.song.ref :=
        hplayed.ref_stays (href ▸ hend.not_dead) (by rw [href, hw.mus_eq, hw.cfg_eq]; exact hlives)
      exact absurd (href ▸ hstays ▸ hstop) (hend.not_dead stop)
    · exact ⟨_, songTick_of_no_next hw.mode_eq hu hstop ((hw.nextPattern_eq hplayed).trans hnext)⟩
  · exact ⟨w', songTick_of_incomplete hw.mode_eq hu (not_exists.mp hdead)⟩

/-- The pattern that follows in a chain is the one that follows in any song at that pattern and record. -/
theorem nextAt_eq {i : Nat} {q : Fin 64} {song : SongState} (hpat : song.pat = q) (hcur : song.cur = s.recordAt i q) :
    s.nextAt i q = ({ s with song := song } : State).nextPattern :=
  nextPattern_congr rfl rfl hpat.symm hcur.symm

/-- A reference that is dead after the updates of the music slots died in one, or was dead before. -/
theorem refAfter_eq_dead {r : RefVoice} {died : Fin 4 → Option Nat} {stop : Nat} (h : refAfter r died = .dead stop) :
    (∃ k, r = .live k ∧ died k = some stop) ∨ r = .dead stop := by
  rcases r with _ | k | c
  · cases h
  · refine .inl ⟨k, rfl, ?_⟩
    rcases hd : died k with _ | c
    · simp [refAfter, hd] at h
    · simpa [refAfter, hd] using h
  · exact .inr h

/-- A run of the song from a pattern of a chain of silent patterns leaves the buffer as it was: each transition is the chain's. -/
theorem SongRun.mix_of_silent (hch : s.Chain m p c mus ref) (hs : s.Running)
    (hsilent : ∀ i, i ≤ m → ∀ (k : Fin 4) v, (mus i)[k] = some v → v.Silent) (hend : ChainEnds s m p mus ref)
    {song song' : SongState} {ms ms' : Vector (Option Voice) 4} {x x' : Rendering} (h : SongRun s song ms x song' ms' x') {i : Nat} (hi : i ≤ m)
    (hsong : song = { mode := .playing, pat := p i, cur := s.recordAt i (p i), ref := ref i }) (hms : ms = mus i)
    (hl : x.mix.length = s.cfg.B) : x'.mix = x.mix := by
  induction h generalizing i with
  | stopped => rfl
  | goesOn mode slots incomplete => exact slotsRun_mix_of_silent (hms ▸ hsilent i hi) slots
  | stops mode slots complete next => exact slotsRun_mix_of_silent (hms ▸ hsilent i hi) slots
  | @movesOn song song'' ms ms' ms'' set x x' x'' died stop q ref' mode slots complete next voices reference again ih =>
    have hnext : s.nextAt i (p i) = some q := (nextAt_eq (song := song) (by rw [hsong]) (by rw [hsong])).trans next
    subst hsong hms
    have hmix : x'.mix = x.mix := slotsRun_mix_of_silent (hsilent i hi) slots
    have hdied : ∀ (k : Fin 4) (c : Nat), died k = some c ↔ ∃ v, (mus i)[k] = some v ∧ v.EndsAt s.cfg c :=
      fun k => (slotsRun_playedTo (hch.voicesOk hs hi) hl slots k).2
    obtain hlt | rfl := Nat.lt_or_eq_of_le hi
    · obtain ⟨j, v, href, hv, hvend⟩ := hch.ends i hlt
      obtain ⟨hset, hset_ref⟩ := hch.set_up i hlt
      have hdeath : died j = some (c (i + 1)) := (hdied j _).mpr ⟨v, hv, hvend⟩
      obtain rfl : c (i + 1) = stop := by simpa [refAfter, href, hdeath] using complete
      obtain rfl : p (i + 1) = q := Option.some.inj ((hch.next i hlt).symm.trans hnext)
      have hmus : set = mus (i + 1) := voices.eq_ofFn.trans hset.eq_ofFn.symm
      have href' : ref' = ref (i + 1) := reference.eq (hmus ▸ hset_ref)
      have hrecord : s.recordAt (i + 1) (p (i + 1)) = s.decodePattern (p (i + 1)) := if_neg (Nat.succ_ne_zero i)
      exact (ih hlt (by rw [href', hrecord]) hmus (hmix ▸ hl)).trans hmix
    · obtain ⟨k, href, hdeath⟩ | href := refAfter_eq_dead complete
      · obtain ⟨v, hv, hvend⟩ := (hdied k stop).mp hdeath
        obtain hlives | hnone := hend.plays_on_or_stops
        · exact absurd hvend (hlives k v href hv stop)
        · cases hnone.symm.trans hnext
      · exact absurd href (hend.not_dead stop)

end Chain

/-- Settles O22: with no voice the rendering does nothing, and with silent ones it leaves the buffer of zeros. -/
theorem silentPull : Obligations.SilentPull := by
  refine ⟨fun x s hempty hsong => ?_, fun x s hs hm hsilent => ?_, fun x s m p c mus ref hs hch hsfx hmus hz hdead hend => ?_⟩
  · have hrender : s.zeroMix.renderVoices = .ok s.zeroMix := renderVoices_of_empty hempty hsong
    simp only [exec, execPull, hrender, State.publish, zeroMix_mix, List.map_replicate]
    rfl
  · obtain ⟨t, ht, hmix⟩ := renderVoices_of_silent_sfx hs.zeroMix hm hsilent
    exact exec_pull_of_zeros ht hmix x
  · obtain ⟨t, ht⟩ := hch.renders hs hz ⟨hdead, hend⟩
    obtain ⟨hrun, hm, -⟩ := hs
    obtain ⟨y, died, hslots, hsong, -⟩ := pullRun_of_renderVoices ht
    obtain ⟨hpat, hmus0, href0⟩ := hch.start
    have hsfx_mix : y.mix = s.zeroMix.mix := slotsRun_mix_of_silent hsfx hslots
    have hmus_mix : t.mix = y.mix := hsong.mix_of_silent hch hrun hmus ⟨hdead, hend⟩ (Nat.zero_le m)
      (by rw [hpat, href0, ← hm]; rfl) hmus0.symm (by rw [hsfx_mix, zeroMix_mix, List.length_replicate])
    exact exec_pull_of_zeros ht (hmus_mix.trans hsfx_mix) x

end Sys2Proof.Machine
end

section
/-! SUPPORT. The silent noops (60_exceptions.md R313), and what stops the block (R311, R316, R317): the block that is halted, and the
PULL that gets stuck, at a voice whose update is endless or at a chain of patterns that repeats. -/

namespace Sys2Proof.Machine

/-! ## The slot or the chain that a PULL gets stuck at -/

section Stuck
variable {s u : State} {slot : SlotId} {v : Voice} {r : StuckReason}

theorem updateSlot_of_Z (hv : s.voice slot = some v) (hZ : v.Z) : s.updateSlot slot = .error (.zeroDurationLoop slot) := by
  have hend : updateVoice s.cfg v s.mix s.draws = .endless := by simp only [updateVoice, endlessLoop_iff.mpr hZ, if_true]
  simp only [State.updateSlot, hv, hend]

theorem updateSlots_cons_error (rest : List SlotId) (h : s.updateSlot slot = .error r) : s.updateSlots (slot :: rest) = .error r := by
  simp only [State.updateSlots, h]

theorem updateSlots_append_of_ok {first : List SlotId} (rest : List SlotId) (h : s.updateSlots first = .ok u) :
    s.updateSlots (first ++ rest) = u.updateSlots rest := by
  induction first generalizing s with
  | nil =>
    cases h
    rfl
  | cons slot first ih =>
    obtain ⟨t, ht, hfirst⟩ := updateSlots_cons_ok.mp h
    rw [List.cons_append, State.updateSlots, ht]
    exact ih hfirst

/-- The updates of a list of slots leave the voices of the others. -/
theorem voice_updateSlots_other {slots : List SlotId} (h : s.updateSlots slots = .ok u) (hne : slot ∉ slots) :
    u.voice slot = s.voice slot :=
  updateSlots_keeps (fun t => t.voice slot = s.voice slot) slots
    (fun _ _ _ hm hP hu => (voice_updateSlot_other hu (ne_of_mem_of_not_mem hm hne).symm).trans hP) rfl h

/-- The channels looked at before channel `k` are below it. -/
theorem channelList_split (k : Fin 4) :
    ∃ before after, channelList = before ++ k :: after ∧ before.Nodup ∧ ∀ j ∈ before, j < k := by
  obtain ⟨before, after, he⟩ := List.append_of_mem ((by decide : ∀ k : Fin 4, k ∈ channelList) k)
  have hsorted : (before ++ k :: after).Pairwise (· < ·) := he ▸ (by decide : channelList.Pairwise (· < ·))
  obtain ⟨hbefore, -, hlt⟩ := List.pairwise_append.mp hsorted
  exact ⟨before, after, he, hbefore.imp ne_of_lt, fun j hj => hlt j hj k List.mem_cons_self⟩

/-- The updates of four slots stop at the first one whose voice meets Z (60_exceptions.md R316, R317). -/
theorem updateSlots_of_first_Z {name : Fin 4 → SlotId} (hname : Function.Injective name) (hs : s.Running) {k : Fin 4}
    (hv : s.voice (name k) = some v) (hZ : v.Z) (hfirst : ∀ j w, j < k → s.voice (name j) = some w → ¬ w.Z) :
    s.updateSlots (channelList.map name) = .error (.zeroDurationLoop (name k)) := by
  obtain ⟨before, after, he, hnodup, hlt⟩ := channelList_split k
  obtain ⟨u, hu⟩ := updateSlots_ok_of_no_Z (hnodup.map hname) hs fun slot hm w hw => by
    obtain ⟨j, hj, rfl⟩ := List.mem_map.mp hm
    exact hfirst j w (hlt j hj) hw
  have hnew : name k ∉ before.map name := fun hm => by
    obtain ⟨j, hj, hjk⟩ := List.mem_map.mp hm
    exact absurd (hlt j hj) (hname hjk ▸ lt_irrefl k)
  rw [he, List.map_append, List.map_cons, updateSlots_append_of_ok _ hu]
  exact updateSlots_cons_error _ (updateSlot_of_Z ((voice_updateSlots_other hu hnew).trans hv) hZ)

/-- The updates of the music slots stop at the first one whose voice meets Z. -/
theorem updateSlots_mus_of_first_Z (hs : s.Running) {k : Fin 4} (hv : s.mus[k] = some v) (hZ : v.Z)
    (hfirst : ∀ (j : Fin 4) w, j < k → s.mus[j] = some w → ¬ w.Z) :
    s.updateSlots musSlots = .error (.zeroDurationLoop (.mus k)) :=
  updateSlots_of_first_Z (name := .mus) (fun _ _ => SlotId.mus.inj) hs hv hZ hfirst

/-- A PULL with an endless one-shot voice stops at the first one, before the song tick. -/
theorem renderVoices_of_first_Z (hs : s.Running) {k : Fin 4} (hv : s.sfx[k] = some v) (hZ : v.Z)
    (hfirst : ∀ (j : Fin 4) w, j < k → s.sfx[j] = some w → ¬ w.Z) :
    s.renderVoices = .error (.zeroDurationLoop (.sfx k)) := by
  have hslots : s.updateSlots sfxSlots = .error (.zeroDurationLoop (.sfx k)) :=
    updateSlots_of_first_Z (name := .sfx) (fun _ _ => SlotId.sfx.inj) hs hv hZ hfirst
  simp only [State.renderVoices, hslots]

/-- A PULL whose rendering does not end records why, and changes nothing else (60_exceptions.md R316; log 6). -/
theorem exec_pull_of_error (x : BitVec 28) (h : s.zeroMix.renderVoices = .error r) :
    exec (.pull x) s = .next { s with stuck := some r } := by
  simp only [exec, execPull, h, State.getStuck]

end Stuck

/-- Settles O21: the updates stop at the first slot that meets Z, and the last round of the chain at a pair already set up. -/
theorem pullStuck : Obligations.PullStuck := by
  refine ⟨fun x s k v hs hv hZ hfirst => ?_, fun x s m p c mus ref k v hs hch hv hZ hfirst => ?_,
    fun x s m p c mus ref j v i hs hch hz href hv h1 hi hend hnext => ?_⟩
  · exact exec_pull_of_error x (renderVoices_of_first_Z hs.zeroMix hv hZ hfirst)
  · obtain ⟨w, hw, heq⟩ := hch.renderVoices_eq hs
    rw [← hw.mus_eq] at hv hfirst
    have hslots := updateSlots_mus_of_first_Z hw.running hv hZ hfirst
    exact exec_pull_of_error x (heq.trans (songTick_of_error hw.mode_eq hslots))
  · obtain ⟨w, hw, heq⟩ := hch.renderVoices_eq hs
    obtain ⟨w', died, hu, hplayed⟩ := musicPlayed_of_no_Z hw.running (hw.mus_eq ▸ hz)
    have hdead : w'.song.ref = .dead (c i) := hplayed.ref_dead (by rw [hw.song_eq, href]) (hw.mus_eq ▸ hv) (hw.cfg_eq ▸ hend)
    have hseen : (p i, c i) ∈ chainPairs p c m := mem_chainPairs.mpr ⟨i, h1, hi, rfl⟩
    exact exec_pull_of_error x
      (heq.trans (songTick_of_seen hw.mode_eq hu hdead ((hw.nextPattern_eq hplayed).trans hnext) hseen))

/-! ## The halted block -/

section Halted
variable {s : State} {i : Input} {rest : List Input} {f : Fault}

theorem halted_of_fault {q : CfgFault} (h : s.fault = some q) : s.halted = some (.configuration q) := by
  simp only [State.halted, h]

theorem halted_of_stuck {r : StuckReason} (hfault : s.fault = none) (h : s.stuck = some r) : s.halted = some (.stuckPull r) := by
  simp only [State.halted, hfault, h]

/-- A halted block takes neither a command nor a voice selection: the run stops with the reason. -/
theorem step_of_halted (e : s.stream = i :: rest) (hi : (∃ w, i = .issue w) ∨ ∃ slot, i = .selectVoice slot)
    (h : s.halted = some f) : step s = .fault f := by
  have hp : s.pending = .halted f := by
    obtain ⟨w, rfl⟩ | ⟨slot, rfl⟩ := hi
    · simp only [State.pending, e, h]
    · simp only [State.pending, e, h]
  simp only [step, hp]

end Halted

/-- Settles O8: the fault is looked at before the stuck reason. -/
theorem haltedBlock : Obligations.HaltedBlock := by
  intro s i rest e hi
  exact ⟨fun _ hfault => step_of_halted e hi (halted_of_fault hfault),
    fun _ hfault hstuck => step_of_halted e hi (halted_of_stuck hfault hstuck)⟩

/-! ## The noops -/

section Noops
variable {s : State} {n ch off len : Int}

theorem with_sfx_eq_self {slots : Fin 4 → Option Voice} (h : ∀ k : Fin 4, slots k = s.sfx[k]) :
    ({ s with sfx := Vector.ofFn slots } : State) = s :=
  (eq_with_sfx rfl fun k => (h k).symm).symm

theorem exec_sfxStop_of_invalid (x : BitVec 16) (h : ch ∉ [(-1 : Int), 0, 1, 2, 3]) : exec (.sfxStop ch x) s = .next s := by
  rw [sfxStop ch x s, with_sfx_eq_self fun k => if_neg ?_]
  simp only [List.mem_cons, List.not_mem_nil, or_false] at h
  omega

theorem exec_sfxRelease_of_empty (x : BitVec 16) (h : ∀ k : Fin 4, ch = (k.val : Int) → s.sfx[k] = none) :
    exec (.sfxRelease ch x) s = .next s := by
  rw [sfxRelease ch x s, with_sfx_eq_self fun k => ?_]
  split
  · next hk => rw [h k hk, Option.map_none]
  · rfl

theorem exec_sfxPlay_of_invalid_index (h : ¬ (0 ≤ n ∧ n ≤ 63)) : exec (.sfxPlay n ch off len) s = .next s := by
  simp only [exec, execSfxPlay, indexOf_eq_none.mpr h]

theorem exec_sfxPlay_of_invalid_channel (h : ¬ (-2 ≤ ch ∧ ch ≤ 3)) : exec (.sfxPlay n ch off len) s = .next s := by
  have hch : validChannel ch = false := Bool.eq_false_iff.mpr fun hv => h (validChannel_iff.mp hv)
  rcases hn : indexOf n with _ | i
  · simp only [exec, execSfxPlay, hn]
  · simp only [exec, execSfxPlay, hn, hch, Bool.false_eq_true, if_false]

/-- With every slot held by a voice of another instrument, the stop-first step frees none and channel −1 finds none free. -/
theorem exec_sfxPlay_of_no_slot (h : ∀ k : Fin 4, ∃ v, s.sfx[k] = some v ∧ (v.instrIdx.val : Int) ≠ n) :
    exec (.sfxPlay n (-1) off len) s = .next s := by
  rcases hn : indexOf n with _ | i
  · exact exec_sfxPlay_of_invalid_index (indexOf_eq_none.mp hn)
  obtain rfl := indexOf_eq_some.mp hn
  obtain ⟨-, hnone, -⟩ := sfxPlay i (-1) off len s s.sfx fun k => by
    obtain ⟨v, hv, hne⟩ := h k
    simp only [hv, if_neg fun he : v.instrIdx = i => hne (by rw [he])]
  exact hnone rfl fun k hk => by
    obtain ⟨v, hv, -⟩ := h k
    cases hk.symm.trans hv

theorem exec_music_of_invalid (x : BitVec 20) (h : ¬ (0 ≤ n ∧ n ≤ 63)) : exec (.music n x) s = .next s := by
  simp only [exec, execMusic, indexOf_eq_none.mpr h]

end Noops

/-- Settles O9, cause by cause; NOP and the reserved words have the noop for their meaning. -/
theorem noopCauses : Obligations.NoopCauses := by
  intro s
  refine ⟨fun _ => rfl, fun _ _ => rfl, fun _ _ => rfl, fun _ _ => rfl, fun _ => exec_sfxStop_of_invalid,
    fun _ => exec_sfxRelease_of_empty, fun n _ _ _ h64 _ => exec_sfxPlay_of_invalid_index (by omega), fun _ ch _ _ hch => ?_,
    fun _ _ _ => exec_sfxPlay_of_no_slot, fun _ => exec_music_of_invalid⟩
  simp only [List.mem_cons, List.not_mem_nil, or_false] at hch
  exact exec_sfxPlay_of_invalid_channel (by omega)

end Sys2Proof.Machine
end

section
/-! SUPPORT. Reset (70_reset_and_hazards.md R340): the step that takes it, the configuration check, and what each verdict of the
check leads to. -/

namespace Sys2Proof.Machine

/-- A reset at the head of the stream takes effect whatever the state (R342). -/
theorem step_reset {s : State} {c : Cfg} {rest : List Input} (h : s.stream = .reset c :: rest) :
    step s = .next ({ s with stream := rest }.applyReset c) := by
  simp only [step, State.pending, h]

section Check
variable {c : Cfg}

theorem checkCfg_of_bufLen (hB : c.bufLen < 1) : checkCfg c = some (.bufferSize c.bufLen) := if_pos hB

theorem checkCfg_of_sr (hB : 1 ≤ c.bufLen) (hSR : c.sr < 1) : checkCfg c = some (.sampleRate c.sr) := by
  rw [checkCfg, if_neg (by omega), if_pos hSR]

theorem checkCfg_of_valid (h : CfgValid c) : checkCfg c = none := by
  obtain ⟨hSR, hB⟩ := h
  rw [checkCfg, if_neg (by omega), if_neg (by omega)]

theorem applyReset_of_fault {f : CfgFault} (h : checkCfg c = some f) (s : State) :
    s.applyReset c = { s with cfg := c }.raiseCfgFault f := by
  rw [State.applyReset, h]

theorem applyReset_of_valid (h : CfgValid c) (s : State) : s.applyReset c = { s with cfg := c }.clear := by
  rw [State.applyReset, checkCfg_of_valid h]

end Check

/-- A reset whose check fails latches the configuration and records the fault (60_exceptions.md R311). -/
theorem step_reset_of_fault {s : State} {c : Cfg} {rest : List Input} {f : CfgFault} (h : s.stream = .reset c :: rest)
    (hf : checkCfg c = some f) : ∃ t, step s = .next t ∧ t.cfg = c ∧ t.fault = some f ∧ t.tables = s.tables := by
  refine ⟨_, step_reset h, ?_⟩
  rw [applyReset_of_fault hf]
  exact ⟨rfl, rfl, rfl⟩

theorem silentPattern_isSilent (k : Fin 4) : silentPattern.channels[k].isSilent = true := by
  simp [silentPattern]

/-- Settles O53, by the three verdicts of the configuration check. -/
theorem reset : Obligations.Reset := by
  intro s c rest h
  refine ⟨fun hB => ?_, fun hB hSR => ?_, fun hB hSR => ?_⟩
  · exact step_reset_of_fault h (checkCfg_of_bufLen hB)
  · exact step_reset_of_fault h (checkCfg_of_sr hB hSR)
  · refine ⟨silentPattern, s.draws, none, silentPattern_isSilent, rfl, rfl, rfl, ?_⟩
    rw [step_reset h, applyReset_of_valid ⟨hSR, hB⟩]
    rfl

end Sys2Proof.Machine
end
